-- ==== Sys2Proof/Word.lean ====
section
/-! DEFINITION. The byte and its readings (00_scope.md rules R7, R8). Every stored value of the block is 8 bits wide;
the operation, not the value, says whether it is read unsigned or signed. -/

namespace Sys2Proof

/-- A `bits8` vector (R8). -/
abbrev Byte := BitVec 8

/-- `uns(b)`: the unsigned value of `b`, in 0..255 (R8). -/
def uns (b : Byte) : Nat := b.toNat

/-- `sgn(b)`: the two's-complement value of `b`, in -128..127 (R8). -/
def sgn (b : Byte) : Int := b.toInt

/-- `byte(n)`: the byte whose unsigned value is `n mod 256`, `mod` the non-negative remainder (R7, R8). -/
def byte (n : Int) : Byte := BitVec.ofInt 8 n

end Sys2Proof
end

