-- ==== Sys2Proof/Config.lean ====
section
/-! DEFINITION. The implementation parameters of 00_scope.md rule R6, as plain data. "A model instance fixes every one
before reset": they stand in a field of the state that no step and no reset changes (assumption log 1), so one model
covers every admitted parameter value. The parameter IMAGE is an argument of `Machine.launch`. The spec leaves no value
free (93_implementation_defined.md), so nothing here is opaque. -/

namespace Sys2Proof

/-- The instruction-set variant, parameter `VARIANT` (R2, R6; D1). -/
inductive Variant where
  | rich
  | lean
  deriving DecidableEq, Repr

/-- The sixteen names the source gives its opcodes (30_encoding.md rule R73). POP and LOAD name a different instruction
in each variant. -/
inductive Mnemonic where
  | noop | push | pop | rpush | rpop | add | sub | load | stor | jmp | jeq | halt | dup | one | zero | jpos
  deriving DecidableEq, Repr

/-- Parameter `OPCODE_MAP` (R6, R73): the byte value of each mnemonic. -/
structure OpcodeMap where
  noop : Byte
  push : Byte
  pop : Byte
  rpush : Byte
  rpop : Byte
  add : Byte
  sub : Byte
  load : Byte
  stor : Byte
  jmp : Byte
  jeq : Byte
  halt : Byte
  dup : Byte
  one : Byte
  zero : Byte
  jpos : Byte
  deriving DecidableEq, Repr

/-- `OPCODE_MAP(m)`. -/
def OpcodeMap.at (map : OpcodeMap) : Mnemonic → Byte
  | .noop => map.noop
  | .push => map.push
  | .pop => map.pop
  | .rpush => map.rpush
  | .rpop => map.rpop
  | .add => map.add
  | .sub => map.sub
  | .load => map.load
  | .stor => map.stor
  | .jmp => map.jmp
  | .jeq => map.jeq
  | .halt => map.halt
  | .dup => map.dup
  | .one => map.one
  | .zero => map.zero
  | .jpos => map.jpos

/-- The parameters a model instance fixes before reset (R6). -/
structure Params where
  variant : Variant
  coreSize : Nat
  stackSize : Nat
  opcodeMap : OpcodeMap
  deriving DecidableEq, Repr

/-- Parameter `PC_W`: the least width `w` with `2^w > CORE_SIZE` (R6; D5). An admitted `CORE_SIZE` is at most 256, so
the search ends at or before width 9. -/
def Params.pcWidth (p : Params) : Nat :=
  ((List.range 10).find? fun w => decide (p.coreSize < 2 ^ w)).getD 0

end Sys2Proof
end

