-- ==== Sys2Proof/Syntax.lean ====
section
/-! DEFINITION. The instructions: one constructor for each of the 23 rows of opcode_table.json. No instruction has an
operand field (30_encoding.md rules R70, R72), so no constructor has an argument. A mnemonic of both variants is two
rows and two constructors. -/

namespace Sys2Proof

/-- One row of the opcode table each, twelve of RICH and eleven of LEAN. -/
inductive Instr where
  | noopRich
  | pushRich
  | popRich
  | rpushRich
  | rpopRich
  | addRich
  | subRich
  | loadRich
  | storRich
  | jmpRich
  | jeqRich
  | haltRich
  | noopLean
  | popLean
  | addLean
  | subLean
  | loadLean
  | jmpLean
  | haltLean
  | dupLean
  | oneLean
  | zeroLean
  | jposLean
  deriving DecidableEq, Repr

/-- The variant the row belongs to (the table's "variant"). -/
def Instr.variant : Instr → Variant
  | .noopRich => .rich
  | .pushRich => .rich
  | .popRich => .rich
  | .rpushRich => .rich
  | .rpopRich => .rich
  | .addRich => .rich
  | .subRich => .rich
  | .loadRich => .rich
  | .storRich => .rich
  | .jmpRich => .rich
  | .jeqRich => .rich
  | .haltRich => .rich
  | .noopLean => .lean
  | .popLean => .lean
  | .addLean => .lean
  | .subLean => .lean
  | .loadLean => .lean
  | .jmpLean => .lean
  | .haltLean => .lean
  | .dupLean => .lean
  | .oneLean => .lean
  | .zeroLean => .lean
  | .jposLean => .lean

/-- The name under which `OPCODE_MAP` gives the row its byte (R73). -/
def Instr.mnemonic : Instr → Mnemonic
  | .noopRich => .noop
  | .pushRich => .push
  | .popRich => .pop
  | .rpushRich => .rpush
  | .rpopRich => .rpop
  | .addRich => .add
  | .subRich => .sub
  | .loadRich => .load
  | .storRich => .stor
  | .jmpRich => .jmp
  | .jeqRich => .jeq
  | .haltRich => .halt
  | .noopLean => .noop
  | .popLean => .pop
  | .addLean => .add
  | .subLean => .sub
  | .loadLean => .load
  | .jmpLean => .jmp
  | .haltLean => .halt
  | .dupLean => .dup
  | .oneLean => .one
  | .zeroLean => .zero
  | .jposLean => .jpos

/-- The instructions of a variant, in the order of their default bytes (R73; LEAN membership D6, assumption log 4). -/
def Variant.instrs : Variant → List Instr
  | .rich => [.noopRich, .pushRich, .popRich, .rpushRich, .rpopRich, .addRich, .subRich, .loadRich, .storRich, .jmpRich,
      .jeqRich, .haltRich]
  | .lean => [.noopLean, .popLean, .addLean, .subLean, .loadLean, .jmpLean, .haltLean, .dupLean, .oneLean, .zeroLean,
      .jposLean]

end Sys2Proof
end

