-- ==== Sys2Proof/WellFormed.lean ====
section
/-! DEFINITION. What is well formed: an opcode map (30_encoding.md rule R75), a set of parameters (00_scope.md rule R6)
and an instruction of a model instance (30_encoding.md rule R73). -/

namespace Sys2Proof

/-- The bytes the map gives the instructions of a variant. -/
def OpcodeMap.bytes (map : OpcodeMap) (v : Variant) : List Byte := v.instrs.map fun i => map.at i.mnemonic

/-- The constraints on `OPCODE_MAP` (R75): NOOP is 0x00, and distinct mnemonics of one variant have distinct bytes. That
every value is a byte is the type's. The constraint is asked of both variants, whichever is selected (assumption log 25). -/
abbrev OpcodeMap.WellFormed (map : OpcodeMap) : Prop :=
  map.noop = 0x00 ∧ (map.bytes .rich).Nodup ∧ (map.bytes .lean).Nodup

/-- The admitted parameters (R6; D3, D4): `CORE_SIZE` and `STACK_SIZE` in 1..256 and a well-formed map. "A model refuses
a parameter outside its admitted range." -/
abbrev Params.Admitted (p : Params) : Prop :=
  (1 ≤ p.coreSize ∧ p.coreSize ≤ 256) ∧ (1 ≤ p.stackSize ∧ p.stackSize ≤ 256) ∧ p.opcodeMap.WellFormed

/-- An instruction is well formed for a model instance when it belongs to the instance's variant (R73, R74). -/
abbrev Instr.WellFormed (i : Instr) (p : Params) : Prop := i.variant = p.variant

end Sys2Proof
end

