-- ==== Sys2Proof/Decode.lean ====
section
/-! DEFINITION. The instruction decoder (30_encoding.md rules R70 to R77), after it the encoder, and the default opcode
map with the reference parameters. -/

namespace Sys2Proof

/-- What the decoder answers (R74): an instruction, or INVALID, by name. -/
inductive Decoded where
  | instr (i : Instr)
  | invalid
  deriving DecidableEq, Repr

/-- The byte of an instruction under the instance's `OPCODE_MAP` (R73). -/
def Params.opcode (p : Params) (i : Instr) : Byte := p.opcodeMap.at i.mnemonic

/-- The decoder (R74): total, a function of the byte and the parameters alone. An unknown byte is INVALID and falls
through to no neighbour (R76). -/
def decode (p : Params) (opcode : Byte) : Decoded :=
  match p.variant.instrs.find? fun i => p.opcode i == opcode with
  | some i => .instr i
  | none => .invalid

/-- The encoder: the bytes of an instruction. Every instruction is exactly one byte (R70, R71). -/
def encode (p : Params) (i : Instr) : List Byte := [p.opcode i]

/-- The default `OPCODE_MAP` (R73; D2): the source fixes NOOP alone, the other values are the spec's own choice
(assumption log 3, UNVERIFIED). -/
def OpcodeMap.default : OpcodeMap where
  noop := 0x00
  push := 0x01
  pop := 0x02
  rpush := 0x03
  rpop := 0x04
  add := 0x05
  sub := 0x06
  load := 0x07
  stor := 0x08
  jmp := 0x09
  jeq := 0x0A
  halt := 0x0B
  dup := 0x0C
  one := 0x0D
  zero := 0x0E
  jpos := 0x0F

/-- The reference sizes and the default map, in the variant given (R6; assumption log 2). -/
def Params.reference (v : Variant) : Params where
  variant := v
  coreSize := 64
  stackSize := 16
  opcodeMap := .default

/-- The one byte of a table word: the bits above `nbits` are 0, and the instruction is its first byte (R70, R71). -/
def tableByte (nbits w : Nat) : Byte := BitVec.ofNat 8 (w % 2 ^ nbits)

/-- The decoder on an opcode table word, under the default map the table is written in. The word alone does not name
the variant, on which decoding depends (R74): the RICH decoder reads it first, and the LEAN decoder reads a byte that
RICH calls INVALID (assumption log 11, DESIGN CHOICE). -/
def decodeTableWord (nbits w : Nat) : Option Instr :=
  match decode (.reference .rich) (tableByte nbits w) with
  | .instr i => some i
  | .invalid =>
    match decode (.reference .lean) (tableByte nbits w) with
    | .instr i => some i
    | .invalid => none

end Sys2Proof
end

