-- ==== Sys2Proof/Machine/State.lean ====
section
/-! DEFINITION. The state of the block (10_state.md rule R20), its reset (R37), and the ways a step of the MODEL stops.
A fault of the block is none of these: it is "ordinary data" (60_exceptions.md rule R203), a next state whose `run` is
PANICKED. -/

namespace Sys2Proof.Machine

open Sys2Proof

/-- A circular stack (R24, R25, R35): every one of its slots, and the index of the top. The invariant `Stack.Legal`
says that there are `STACK_SIZE` slots and that the index names one. -/
structure Stack where
  slots : List Byte
  top : Nat
  deriving DecidableEq, Repr

/-- The loop state (R28). -/
inductive RunState where
  | running
  | halted
  | panicked
  deriving DecidableEq, Repr

/-- The operation an address fault names (60_exceptions.md rule R200). -/
inductive AddressUse where
  | load
  | stor
  | jump
  | jeq
  | jpos
  deriving DecidableEq, Repr

/-- The closed set of fault reasons of the block (60_exceptions.md rule R200). -/
inductive PanicReason where
  | programCounterOutOfRange
  | invalidInstruction
  | addressOutOfRange (op : AddressUse)
  deriving DecidableEq, Repr

/-- The state (R20), with the parameters of the instance beside it. -/
structure State where
  /-- The implementation parameters (R6): fixed before reset, changed by nothing (assumption log 1). -/
  params : Params
  /-- `pc`, a natural number in `[0, CORE_SIZE]` (R21; assumption log 23). -/
  pc : Nat
  /-- `core` (R23): address and byte, addresses rising, no entry for a byte at 0x00. -/
  core : List Host.Cell
  /-- `DS` and `dtop` (R24). -/
  ds : Stack
  /-- `RS` and `rtop` (R25), RICH only: empty in LEAN (assumption log 5). -/
  rs : Stack
  /-- `acc` (R26), RICH only: an inert 0x00 in LEAN (assumption log 5). -/
  acc : Byte
  /-- `run` (R28). -/
  run : RunState
  /-- `reason` (R29), `none` for NONE. -/
  reason : Option PanicReason
  deriving DecidableEq, Repr

/-- Stops of the model with a fault: there are none. Every fault the spec gives is taken, as a next state with
`run` PANICKED (R203), so no meaning and no step raises a `Fault` (assumption log 17). -/
inductive Fault where
  deriving DecidableEq, Repr

/-- Stops of the model with a refusal. -/
inductive Refusal where
  /-- An instruction without a meaning. Every arm of `exec` has its meaning, so nothing raises it. Safe. -/
  | notModelled (mnemonic : String)
  /-- Raised by `step` and `launch` on parameters outside their admitted range, as R6 asks. Safe. -/
  | parameterOutOfRange
  /-- Raised by `launch` on an IMAGE with more bytes than core (R232; assumption log 10). Safe. -/
  | imageTooLong
  deriving DecidableEq, Repr

/-- A stack of `n` slots, zero-filled, its top at slot 0 (R37). -/
def Stack.zeroed (n : Nat) : Stack where
  slots := List.replicate n 0x00
  top := 0

/-- What stands for the return stack in LEAN, which has none (R20): a stack without a slot. -/
def Stack.absent : Stack := Stack.zeroed 0

/-- The return stack at reset (R37): `n` zero slots in RICH, absent in LEAN. -/
def Stack.returnReset : Variant → Nat → Stack
  | .rich, n => Stack.zeroed n
  | .lean, _ => Stack.absent

/-- The reset values of R37, for an instance with parameters `p`. -/
def State.resetOf (p : Params) : State where
  params := p
  pc := 0
  core := []
  ds := Stack.zeroed p.stackSize
  rs := Stack.returnReset p.variant p.stackSize
  acc := 0x00
  run := .running
  reason := none

/-- The machine right after reset: the reference instance (R6) of the RICH variant (assumption log 1). -/
def State.reset : State := State.resetOf (.reference .rich)

end Sys2Proof.Machine
end

