-- ==== Sys2Proof/Machine/Ops.lean ====
section
/-! DEFINITION. The named operations over core memory, the two stacks, the registers and the loop state
(00_scope.md rule R9), raising a fault among them (60_exceptions.md rule R203). -/

namespace Sys2Proof.Machine

open Sys2Proof

/-! ### Core memory (20_memory.md) -/

/-- What a byte of core that nothing has written reads as: the reset value of R37 (assumption log 26). -/
def Memory.unlisted : Byte := 0x00

/-- The canonical form: addresses strictly rising, no entry at the unlisted value. -/
abbrev Memory.WF (m : List Host.Cell) : Prop :=
  (m.Pairwise fun c d => c.1 < d.1) ∧ ∀ c ∈ m, c.2 ≠ Memory.unlisted

/-- `core[a]`. -/
def Memory.read : List Host.Cell → Nat → Byte
  | [], _ => Memory.unlisted
  | c :: m, a => if c.1 = a then c.2 else Memory.read m a

/-- `core` without an entry for `a`. -/
def Memory.erase (m : List Host.Cell) (a : Nat) : List Host.Cell := m.filter fun c => c.1 != a

/-- `core` with the entry `(a, v)` in its place. -/
def Memory.insert : List Host.Cell → Nat → Byte → List Host.Cell
  | [], a, v => [(a, v)]
  | c :: m, a, v =>
    if a < c.1 then (a, v) :: c :: m
    else if a = c.1 then (a, v) :: m
    else c :: Memory.insert m a v

/-- `core[a] <- v`, in canonical form. -/
def Memory.write (m : List Host.Cell) (a : Nat) (v : Byte) : List Host.Cell :=
  if v = Memory.unlisted then Memory.erase m a else Memory.insert m a v

/-- The core whose first bytes, from address `a` up, are those given, every other byte 0x00. -/
def Memory.ofImage : List Byte → Nat → List Host.Cell
  | [], _ => []
  | b :: image, a => if b = Memory.unlisted then Memory.ofImage image (a + 1) else (a, b) :: Memory.ofImage image (a + 1)

/-! ### The circular stack controller (10_state.md rules R30 to R33), shared by both stacks -/

/-- `inc(i)` on `n` slots (R30). -/
def Stack.inc (n i : Nat) : Nat := (i + 1) % n

/-- `dec(i)` on `n` slots (R30). -/
def Stack.dec (n i : Nat) : Nat := (i + n - 1) % n

/-- The byte in slot `i`. Every slot below `STACK_SIZE` holds one (R35; assumption log 18). -/
def Stack.slot (st : Stack) (i : Nat) : Byte := st.slots.getD i 0x00

/-- `top_S()` (R33). -/
def Stack.peek (st : Stack) : Byte := st.slot st.top

/-- `settop_S(v)` (R33). -/
def Stack.setTop (v : Byte) (st : Stack) : Stack := { st with slots := st.slots.set st.top v }

/-- `push_S(v)` (R31): advance the top, then write there. -/
def Stack.push (n : Nat) (v : Byte) (st : Stack) : Stack :=
  Stack.setTop v { st with top := Stack.inc n st.top }

/-- `pop_S()` (R32): read the top, then retreat it; the slot keeps its byte. -/
def Stack.pop (n : Nat) (st : Stack) : Byte × Stack :=
  (st.peek, { st with top := Stack.dec n st.top })

/-! ### Writing one state element -/

/-- `pc <- a`. -/
def State.setPc (a : Nat) (s : State) : State := { s with pc := a }

/-- `core` replaced. -/
def State.setCore (m : List Host.Cell) (s : State) : State := { s with core := m }

/-- `DS`, `dtop` replaced. -/
def State.setDs (st : Stack) (s : State) : State := { s with ds := st }

/-- `RS`, `rtop` replaced. -/
def State.setRs (st : Stack) (s : State) : State := { s with rs := st }

/-- `acc <- v`. -/
def State.setAcc (v : Byte) (s : State) : State := { s with acc := v }

/-- `halt` (R9): `run <- HALTED`; `reason` stays. -/
def State.halt (s : State) : State := { s with run := .halted }

/-- `raise Panic(r)` (R203), the one way a fault is taken: `run <- PANICKED; reason <- r`. No vector, no saved pc. -/
def State.panic (r : PanicReason) (s : State) : State := { s with run := .panicked, reason := some r }

/-! ### The primitives of R9 on the whole state -/

/-- `MemRead(a, 1)`. -/
def State.memRead (a : Nat) (s : State) : Byte := Memory.read s.core a

/-- `MemWrite(a, 1, v)`. -/
def State.memWrite (a : Nat) (v : Byte) (s : State) : State := s.setCore (Memory.write s.core a v)

/-- `push_D(v)`. -/
def State.pushD (v : Byte) (s : State) : State := s.setDs (s.ds.push s.params.stackSize v)

/-- `pop_D()`. -/
def State.popD (s : State) : Byte × State :=
  ((s.ds.pop s.params.stackSize).1, s.setDs (s.ds.pop s.params.stackSize).2)

/-- `top_D()`. -/
def State.topD (s : State) : Byte := s.ds.peek

/-- `settop_D(v)`. -/
def State.setTopD (v : Byte) (s : State) : State := s.setDs (s.ds.setTop v)

/-- `push_R(v)`. -/
def State.pushR (v : Byte) (s : State) : State := s.setRs (s.rs.push s.params.stackSize v)

/-- `pop_R()`. -/
def State.popR (s : State) : Byte × State :=
  ((s.rs.pop s.params.stackSize).1, s.setRs (s.rs.pop s.params.stackSize).2)

end Sys2Proof.Machine
end

