-- ==== Sys2Proof/Machine/Flags.lean ====
section
/-! DEFINITION. The condition unit (40_fetch_decode.md rule R99). The block stores no flag (10_state.md rule R27): these
four Booleans are computed when they are needed and kept nowhere. -/

namespace Sys2Proof.Machine

open Sys2Proof

/-- `acc = 0x00`, for JEQ (R182). -/
def State.accIsZero (s : State) : Bool := s.acc == 0x00

/-- `sgn(tv) >= 0`, for JPOS (R184, R185): the two's-complement sign test (assumption log 19). -/
def isNonNegative (tv : Byte) : Bool := decide (0 ≤ sgn tv)

/-- `uns(a) < CORE_SIZE`, for a data address or a jump target (20_memory.md rules R51, R52): never masked. -/
def State.addressInCore (a : Byte) (s : State) : Bool := decide (uns a < s.params.coreSize)

/-- `pc < CORE_SIZE`, for the fetch (R53, R92). -/
def State.pcInCore (s : State) : Bool := decide (s.pc < s.params.coreSize)

end Sys2Proof.Machine
end

