-- ==== Sys2Proof/Machine/Operands.lean ====
section
/-! DEFINITION. Where operands come from and results go to (30_encoding.md rule R72, 40_fetch_decode.md rule R98): the ALU
on the top two slots, the shift-insert on the top slot, and the checked address taken from the stack. -/

namespace Sys2Proof.Machine

open Sys2Proof

/-- `a +8 b` (00_scope.md rule R10). -/
def aluAdd (a b : Byte) : Byte := byte (uns a + uns b)

/-- `a -8 b` (00_scope.md rule R10). -/
def aluSub (a b : Byte) : Byte := byte (uns a - uns b + 256)

/-- `x[6:0] ++ bit` (42_alu.md rules R143, R144): bit 7 is discarded. -/
def shiftInsert (bit : Bool) (x : Byte) : Byte := byte (2 * uns x + bit.toNat)

/-- `s1 := pop_D(); s2 := pop_D(); push_D(op s2 s1)` (R141, R142). -/
def State.aluTopTwo (op : Byte → Byte → Byte) (s : State) : State :=
  let (s1, s) := s.popD
  let (s2, s) := s.popD
  s.pushD (op s2 s1)

/-- `settop_D(top_D()[6:0] ++ bit)` (R143, R144). -/
def State.shiftTop (bit : Bool) (s : State) : State := s.setTopD (shiftInsert bit s.topD)

/-- `check(a, AddressOutOfRange(op))` (20_memory.md rule R52), and then the guarded rest of the instruction: the check
comes before the access, and a failing one ends the instruction in the fault. -/
def State.checked (a : Byte) (op : AddressUse) (rest : State → State) (s : State) : State :=
  if s.addressInCore a then rest s else s.panic (.addressOutOfRange op)

/-- `check(a, AddressOutOfRange(op)); pc <- uns(a)`: a taken jump (R180, R182, R184). All targets are absolute. -/
def State.jumpTo (a : Byte) (op : AddressUse) (s : State) : State := s.checked a op (State.setPc (uns a))

end Sys2Proof.Machine
end

