-- ==== Sys2Proof/Machine/Alu.lean ====
section
/-! DEFINITION. The ALU instructions (42_alu.md): wrap-around, no flag, no fault (R140). -/

namespace Sys2Proof.Machine

open Sys2Proof

/-- ADD, RICH (R141). -/
def execAddRich (s : State) : Host.Outcome State Fault Refusal := .next (s.aluTopTwo aluAdd)

/-- ADD, LEAN (R141; D6). -/
def execAddLean (s : State) : Host.Outcome State Fault Refusal := .next (s.aluTopTwo aluAdd)

/-- SUB, RICH (R142): `s2 - s1`, the top is the subtrahend. -/
def execSubRich (s : State) : Host.Outcome State Fault Refusal := .next (s.aluTopTwo aluSub)

/-- SUB, LEAN (R142; D6). -/
def execSubLean (s : State) : Host.Outcome State Fault Refusal := .next (s.aluTopTwo aluSub)

/-- ONE (R143). -/
def execOneLean (s : State) : Host.Outcome State Fault Refusal := .next (s.shiftTop true)

/-- ZERO (R144). -/
def execZeroLean (s : State) : Host.Outcome State Fault Refusal := .next (s.shiftTop false)

end Sys2Proof.Machine
end

