-- ==== Sys2Proof/Machine/Control.lean ====
section
/-! DEFINITION. Control transfer and halt (44_control_transfer.md). `pc` has already been incremented by the fetch, so a
jump that is not taken falls through. -/

namespace Sys2Proof.Machine

open Sys2Proof

/-- JMP, RICH (R180). -/
def execJmpRich (s : State) : Host.Outcome State Fault Refusal :=
  let (a, s) := s.popD
  .next (s.jumpTo a .jump)

/-- JMP, LEAN (R180; D6). -/
def execJmpLean (s : State) : Host.Outcome State Fault Refusal :=
  let (a, s) := s.popD
  .next (s.jumpTo a .jump)

/-- JEQ (R182): the address is always popped, and checked only when the jump is taken. -/
def execJeqRich (s : State) : Host.Outcome State Fault Refusal :=
  let (a, s) := s.popD
  .next (if s.accIsZero then s.jumpTo a .jeq else s)

/-- JPOS (R184, R185): the target is on top, the test value below it; both are always popped, and the target is checked
only when the jump is taken (D8, assumption log 9; reason D7, assumption log 8). -/
def execJposLean (s : State) : Host.Outcome State Fault Refusal :=
  let (a, s) := s.popD
  let (tv, s) := s.popD
  .next (if isNonNegative tv then s.jumpTo a .jpos else s)

/-- HALT, RICH (R186). -/
def execHaltRich (s : State) : Host.Outcome State Fault Refusal := .next s.halt

/-- HALT, LEAN (R186; D6). -/
def execHaltLean (s : State) : Host.Outcome State Fault Refusal := .next s.halt

end Sys2Proof.Machine
end

