-- ==== Sys2Proof/Machine/MemoryAccess.lean ====
section
/-! DEFINITION. The memory access instructions (43_memory_access.md). The pops of an instruction come before its check,
and a failing check leaves them done (60_exceptions.md rule R204; D9, assumption log 7). -/

namespace Sys2Proof.Machine

open Sys2Proof

/-- LOAD, RICH form (R160). -/
def execLoadRich (s : State) : Host.Outcome State Fault Refusal :=
  let (a, s) := s.popD
  .next (s.checked a .load fun s => s.setAcc (s.memRead (uns a)))

/-- STOR (R162). -/
def execStorRich (s : State) : Host.Outcome State Fault Refusal :=
  let (a, s) := s.popD
  .next (s.checked a .stor fun s => s.memWrite (uns a) s.acc)

/-- LOAD, LEAN form (R164, R165; reason D7, assumption log 8): the top is the address, and is overwritten. -/
def execLoadLean (s : State) : Host.Outcome State Fault Refusal :=
  let a := s.topD
  .next (s.checked a .load fun s => s.setTopD (s.memRead (uns a)))

/-- POP, LEAN form, the store (R166, R167; reason D7, assumption log 8): the value is on top, the address below it. -/
def execPopLean (s : State) : Host.Outcome State Fault Refusal :=
  let (v, s) := s.popD
  let (a, s) := s.popD
  .next (s.checked a .stor fun s => s.memWrite (uns a) v)

end Sys2Proof.Machine
end

