-- ==== Sys2Proof/Machine/StackTransfer.lean ====
section
/-! DEFINITION. No operation and the stack transfers (41_stack_transfer.md). None of them has a fault (R34), and the
return stack has no control-flow meaning (R125). -/

namespace Sys2Proof.Machine

open Sys2Proof

/-- NOOP, RICH (R120). -/
def execNoopRich (s : State) : Host.Outcome State Fault Refusal := .next s

/-- NOOP, LEAN (R120; D6). -/
def execNoopLean (s : State) : Host.Outcome State Fault Refusal := .next s

/-- PUSH (R121). -/
def execPushRich (s : State) : Host.Outcome State Fault Refusal := .next (s.pushD s.acc)

/-- POP, RICH form (R122). -/
def execPopRich (s : State) : Host.Outcome State Fault Refusal :=
  let (v, s) := s.popD
  .next (s.setAcc v)

/-- RPUSH (R123). -/
def execRpushRich (s : State) : Host.Outcome State Fault Refusal := .next (s.pushR s.acc)

/-- RPOP (R124). -/
def execRpopRich (s : State) : Host.Outcome State Fault Refusal :=
  let (v, s) := s.popR
  .next (s.setAcc v)

/-- DUP (R126; C5): the top is read in place, and the copy pushed. -/
def execDupLean (s : State) : Host.Outcome State Fault Refusal := .next (s.pushD s.topD)

end Sys2Proof.Machine
end

