-- ==== Sys2Proof/Machine/Dispatch.lean ====
section
/-! DEFINITION. The dispatch of an instruction to its handler (40_fetch_decode.md rule R93). -/

namespace Sys2Proof.Machine

open Sys2Proof

/-- The handler of `i`, from the state the fetch left (R93; assumption log 20). -/
def exec (i : Instr) (s : State) : Host.Outcome State Fault Refusal :=
  match i with
  | .noopRich => Sys2Proof.Machine.execNoopRich s
  | .pushRich => Sys2Proof.Machine.execPushRich s
  | .popRich => Sys2Proof.Machine.execPopRich s
  | .rpushRich => Sys2Proof.Machine.execRpushRich s
  | .rpopRich => Sys2Proof.Machine.execRpopRich s
  | .addRich => Sys2Proof.Machine.execAddRich s
  | .subRich => Sys2Proof.Machine.execSubRich s
  | .loadRich => Sys2Proof.Machine.execLoadRich s
  | .storRich => Sys2Proof.Machine.execStorRich s
  | .jmpRich => Sys2Proof.Machine.execJmpRich s
  | .jeqRich => Sys2Proof.Machine.execJeqRich s
  | .haltRich => Sys2Proof.Machine.execHaltRich s
  | .noopLean => Sys2Proof.Machine.execNoopLean s
  | .popLean => Sys2Proof.Machine.execPopLean s
  | .addLean => Sys2Proof.Machine.execAddLean s
  | .subLean => Sys2Proof.Machine.execSubLean s
  | .loadLean => Sys2Proof.Machine.execLoadLean s
  | .jmpLean => Sys2Proof.Machine.execJmpLean s
  | .haltLean => Sys2Proof.Machine.execHaltLean s
  | .dupLean => Sys2Proof.Machine.execDupLean s
  | .oneLean => Sys2Proof.Machine.execOneLean s
  | .zeroLean => Sys2Proof.Machine.execZeroLean s
  | .jposLean => Sys2Proof.Machine.execJposLean s

end Sys2Proof.Machine
end

