-- ==== Sys2Proof/Machine/Fetch.lean ====
section
/-! DEFINITION. The fetch (40_fetch_decode.md rule R92), and placing one instruction where it is fetched. -/

namespace Sys2Proof.Machine

open Sys2Proof

/-- The fetch (R92): `none` where `pc` is not below `CORE_SIZE`, else the opcode at `pc` and the state with `pc`
incremented. -/
def fetch (s : State) : Option (Byte × State) :=
  if s.pcInCore then some (s.memRead s.pc, s.setPc (s.pc + 1)) else none

/-- `s` as an instance of the variant `v` that reads the default map: VARIANT and OPCODE_MAP are fixed before reset
(R6), so another variant is another instance, whose RICH-only state (R20) stands at its reset values (R37). -/
def State.asInstance (v : Variant) (s : State) : State :=
  if s.params.variant = v then { s with params := { s.params with opcodeMap := .default } }
  else
    { s with
      params := { s.params with variant := v, opcodeMap := .default }
      rs := Stack.returnReset v s.params.stackSize
      acc := 0x00 }

/-- `s` with the instruction of a table word where the next fetch reads it: the byte goes to `core[pc]`, and the
instance is one under which the word was read, since the byte alone does not name the instruction (R74; assumption
log 11). Where `pc` is at the end of core no fetch reads anything, and `s` stays as it is. -/
def placeWord (s : State) (nbits w : Nat) : State :=
  if s.pcInCore then
    match decodeTableWord nbits w with
    | some i => (s.memWrite s.pc (tableByte nbits w)).asInstance i.variant
    | none => s.memWrite s.pc (tableByte nbits w)
  else s

end Sys2Proof.Machine
end

