-- ==== Sys2Proof/Machine/Step.lean ====
section
/-! DEFINITION. One step of the block (40_fetch_decode.md rules R90 to R94). -/

namespace Sys2Proof.Machine

open Sys2Proof

/-- One step. While RUNNING: fetch (R92), decode (R93, R94), and the handler of the instruction from the state the fetch
left; each check that fails ends the step in its fault (R203, R206). In HALTED and PANICKED nothing changes (R91; D10,
assumption log 6). Parameters outside their admitted range are refused (R6; assumption log 21). -/
def step (s : State) : Host.Outcome State Fault Refusal :=
  if s.params.Admitted then
    match s.run with
    | .running =>
      match fetch s with
      | none => .next (s.panic .programCounterOutOfRange)
      | some (opcode, t) =>
        match decode t.params opcode with
        | .instr i => exec i t
        | .invalid => .next (t.panic .invalidInstruction)
    | .halted => .next s
    | .panicked => .next s
  else .refused .parameterOutOfRange

/-- `s` with the instruction of a table word stored where `step` fetches its next instruction. -/
def State.withFetchWord (s : State) (nbits w : Nat) : State := placeWord s nbits w

end Sys2Proof.Machine
end

