-- ==== Sys2Proof/Machine/Assembler.lean ====
section
/-! DEFINITION. The spec's assembler notation (30_encoding.md rules R78, R79; D17, assumption log 22). It is
notation for programs, no behaviour of the block: `exec` and `step` do not use it. -/

namespace Sys2Proof.Machine

open Sys2Proof

/-- One line of a program (R78). Comments hold nothing and are left out of the text. -/
inductive AsmLine where
  | instr (m : Mnemonic)
  | byte (n : Int)
  | label (name : String)
  deriving DecidableEq, Repr

/-- The instruction a mnemonic names in a variant (R78: "the form of the model's VARIANT"), if it has one. -/
def Mnemonic.instr? (v : Variant) (m : Mnemonic) : Option Instr := v.instrs.find? fun i => i.mnemonic == m

/-- The bytes of one line; none where the variant has no such mnemonic. -/
def AsmLine.bytes (p : Params) : AsmLine → Option (List Byte)
  | .instr m => (Mnemonic.instr? p.variant m).map fun i => encode p i
  | .byte n => some [Sys2Proof.byte n]
  | .label _ => some []

/-- The bytes of a program, from address 0 (R78). -/
def assemble (p : Params) : List AsmLine → Option (List Byte)
  | [] => some []
  | l :: ls =>
    match l.bytes p, assemble p ls with
    | some b, some bs => some (b ++ bs)
    | _, _ => none

/-- The address a label names: that of the line it stands before (R78). Every line but a label has one byte. -/
def labelAddress (name : String) : List AsmLine → Option Nat
  | [] => none
  | .label n :: ls => if n = name then some 0 else labelAddress name ls
  | .instr _ :: ls => (labelAddress name ls).map (· + 1)
  | .byte _ :: ls => (labelAddress name ls).map (· + 1)

/-- ONE for a set bit, ZERO for a clear one. -/
def shiftMnemonic (bit : Bool) : Mnemonic := if bit then .one else .zero

/-- The eight bits of a byte, bit 7 first. -/
def bitsFromTop (b : Byte) : List Bool :=
  [b.getLsbD 7, b.getLsbD 6, b.getLsbD 5, b.getLsbD 4, b.getLsbD 3, b.getLsbD 2, b.getLsbD 1, b.getLsbD 0]

/-- The macro `SETB n` (R79): for k = 7 down to 0, ONE if bit k of `byte(n)` is 1, else ZERO. -/
def setb (n : Int) : List AsmLine := (bitsFromTop (Sys2Proof.byte n)).map fun bit => .instr (shiftMnemonic bit)

/-- The macro `LIT n` (R79): DUP, then `SETB n`. -/
def lit (n : Int) : List AsmLine := .instr .dup :: setb n

end Sys2Proof.Machine
end

