-- ==== Sys2Proof/Machine/Datapath.lean ====
section
/-! DEFINITION. The datapath view (40_fetch_decode.md rules R97 to R99): the decoder's control selections as ONE table,
every entry computed from the values at the start of the instruction. It adds no behaviour, and neither `exec` nor `step`
uses it: it is the second description the spec gives of every instruction, and claims compare the two. -/

namespace Sys2Proof.Machine

open Sys2Proof

/-- One row of R97's table. A field without a value is a "-" of the table. -/
structure Controls where
  dsWrite : Option (Nat × Byte) := none
  dtop : Nat
  accWrite : Option Byte := none
  rsWrite : Option (Nat × Byte) := none
  rtop : Nat
  coreWrite : Option (Nat × Byte) := none
  checked : Option (Byte × AddressUse) := none
  pcNext : Option Nat := none
  halts : Bool := false
  deriving DecidableEq, Repr

/-- The table of R97. `t`, `rt`, `x0`, `x1`, `y0` are R97's names for the values at the start of the instruction. -/
def controls (i : Instr) (s : State) : Controls :=
  let n := s.params.stackSize
  let t := s.ds.top
  let rt := s.rs.top
  let x0 := s.ds.slot t
  let x1 := s.ds.slot (Stack.dec n t)
  let y0 := s.rs.slot rt
  let idle : Controls := { dtop := t, rtop := rt }
  let pops1 : Controls := { idle with dtop := Stack.dec n t }
  let pops2 : Controls := { idle with dtop := Stack.dec n (Stack.dec n t) }
  let add : Controls := { pops1 with dsWrite := some (Stack.dec n t, aluAdd x1 x0) }
  let sub : Controls := { pops1 with dsWrite := some (Stack.dec n t, aluSub x1 x0) }
  let jmp : Controls := { pops1 with checked := some (x0, .jump), pcNext := some (uns x0) }
  match i with
  | .noopRich => idle
  | .pushRich => { idle with dsWrite := some (Stack.inc n t, s.acc), dtop := Stack.inc n t }
  | .popRich => { pops1 with accWrite := some x0 }
  | .rpushRich => { idle with rsWrite := some (Stack.inc n rt, s.acc), rtop := Stack.inc n rt }
  | .rpopRich => { idle with accWrite := some y0, rtop := Stack.dec n rt }
  | .addRich => add
  | .subRich => sub
  | .loadRich => { pops1 with accWrite := some (s.memRead (uns x0)), checked := some (x0, .load) }
  | .storRich => { pops1 with coreWrite := some (uns x0, s.acc), checked := some (x0, .stor) }
  | .jmpRich => jmp
  | .jeqRich =>
    if s.accIsZero then { pops1 with checked := some (x0, .jeq), pcNext := some (uns x0) } else pops1
  | .haltRich => { idle with halts := true }
  | .noopLean => idle
  | .popLean => { pops2 with coreWrite := some (uns x1, x0), checked := some (x1, .stor) }
  | .addLean => add
  | .subLean => sub
  | .loadLean => { idle with dsWrite := some (t, s.memRead (uns x0)), checked := some (x0, .load) }
  | .jmpLean => jmp
  | .haltLean => { idle with halts := true }
  | .dupLean => { idle with dsWrite := some (Stack.inc n t, x0), dtop := Stack.inc n t }
  | .oneLean => { idle with dsWrite := some (t, x0.extractLsb' 0 7 ++ 1#1) }
  | .zeroLean => { idle with dsWrite := some (t, x0.extractLsb' 0 7 ++ 0#1) }
  | .jposLean =>
    if x1.getLsbD 7 then pops2 else { pops2 with checked := some (x0, .jpos), pcNext := some (uns x0) }

/-- The operation named by an address check that fails, if there is a check and it fails (R52, R206). -/
def Controls.failing (c : Controls) (s : State) : Option AddressUse :=
  match c.checked with
  | some (a, op) => if s.addressInCore a then none else some op
  | none => none

/-- The writes of a row whose check holds or which has none. -/
def Controls.writes (c : Controls) (s : State) : State where
  params := s.params
  pc := c.pcNext.getD s.pc
  core := match c.coreWrite with
    | some (a, v) => Memory.write s.core a v
    | none => s.core
  ds := match c.dsWrite with
    | some (i, v) => { slots := s.ds.slots.set i v, top := c.dtop }
    | none => { s.ds with top := c.dtop }
  rs := match c.rsWrite with
    | some (i, v) => { slots := s.rs.slots.set i v, top := c.rtop }
    | none => { s.rs with top := c.rtop }
  acc := c.accWrite.getD s.acc
  run := if c.halts then .halted else s.run
  reason := s.reason

/-- What one step's datapath does: the row's writes, or, where its address check fails, the pops and the fault alone
(60_exceptions.md rule R204). -/
def datapath (i : Instr) (s : State) : State :=
  match (controls i s).failing s with
  | some op => (s.setDs { s.ds with top := (controls i s).dtop }).panic (.addressOutOfRange op)
  | none => (controls i s).writes s

end Sys2Proof.Machine
end

