-- ==== Sys2Proof/Machine/Interface.lean ====
section
/-! DEFINITION. What stands between the block and its host: the reset input, the launch, the status outputs, the
execution result and the read-only observation (70_reset_and_hazards.md, 60_exceptions.md rules R200, R201, R212). The
host has no other way to act on the block (R236), and none of them writes state during a run. -/

namespace Sys2Proof.Machine

open Sys2Proof

/-! ### Reset and launch -/

/-- The reset input, from any state (R230, R231; D12, assumption log 13): the values of R37 for the same instance. -/
def State.applyReset (s : State) : State := State.resetOf s.params

/-- One edge of `clk` (R231, R239, R240; assumption log 12): with `rst` the block loads the reset values and runs
no step, without it the block runs one step. Reset cannot fail. -/
def clockEdge (rst : Bool) (s : State) : Host.Outcome State Fault Refusal :=
  if rst then .next s.applyReset else step s

/-- The launch state (R232): the reset state with `core` replaced by IMAGE. Bytes of core after the end of the list given
stay 0x00 (R78). Parameters outside their range are refused (R6), and so is an image longer than core (assumption
log 10). -/
def launch (p : Params) (image : List Byte) : Host.Outcome State Fault Refusal :=
  if p.Admitted then
    if image.length ≤ p.coreSize then .next ((State.resetOf p).setCore (Memory.ofImage image 0))
    else .refused .imageTooLong
  else .refused .parameterOutOfRange

/-! ### The status outputs (R201; D14, assumption log 14) -/

/-- The 2-bit `status` output. -/
def statusCode : RunState → BitVec 2
  | .running => 0b00
  | .halted => 0b01
  | .panicked => 0b10

/-- The 3-bit `fault_code` output. -/
def faultCode : Option PanicReason → BitVec 3
  | none => 0
  | some .programCounterOutOfRange => 1
  | some .invalidInstruction => 2
  | some (.addressOutOfRange .load) => 3
  | some (.addressOutOfRange .stor) => 4
  | some (.addressOutOfRange .jump) => 5
  | some (.addressOutOfRange .jeq) => 6
  | some (.addressOutOfRange .jpos) => 7

/-- The reference message of a fault reason (R200). -/
def PanicReason.message : PanicReason → String
  | .programCounterOutOfRange => "program counter out of range"
  | .invalidInstruction => "invalid instruction"
  | .addressOutOfRange .load => "load address out of range"
  | .addressOutOfRange .stor => "stor address out of range"
  | .addressOutOfRange .jump => "jump address out of range"
  | .addressOutOfRange .jeq => "jeq address out of range"
  | .addressOutOfRange .jpos => "jpos address out of range"

/-- The output ports (R240). -/
structure Ports where
  status : BitVec 2
  faultCode : BitVec 3
  deriving DecidableEq, Repr

/-- What the block drives on its outputs in a state. -/
def ports (s : State) : Ports where
  status := statusCode s.run
  faultCode := Machine.faultCode s.reason

/-! ### Results and observation -/

/-- The Execution Result (R29, R96): OK, or PANIC with its reason. -/
inductive ExecutionResult where
  | ok
  | panic (reason : PanicReason)
  deriving DecidableEq, Repr

/-- The result of a finished run, none while RUNNING (R96, R201). -/
def executionResult (s : State) : Option ExecutionResult :=
  match s.run with
  | .running => none
  | .halted => some .ok
  | .panicked => s.reason.map .panic

/-- What RICH has and LEAN has not (R20). -/
structure RichObservation where
  rs : List Byte
  rtop : Nat
  acc : Byte
  deriving DecidableEq, Repr

/-- What the observation port shows (R212, R235, R240; D16, assumption log 15). -/
structure Observation where
  ports : Ports
  pc : Nat
  core : List Byte
  ds : List Byte
  dtop : Nat
  rich : Option RichObservation
  deriving DecidableEq, Repr

/-- The observation of a state: a function of it, so reading changes nothing (R212). Every state of the model stands
between two steps. -/
def observe (s : State) : Observation where
  ports := Machine.ports s
  pc := s.pc
  core := (List.range s.params.coreSize).map fun a => s.memRead a
  ds := s.ds.slots
  dtop := s.ds.top
  rich := match s.params.variant with
    | .rich => some { rs := s.rs.slots, rtop := s.rs.top, acc := s.acc }
    | .lean => none

end Sys2Proof.Machine
end

