-- ==== Sys2Proof/Safety.lean ====
section
/-! DEFINITION. The terms claims are stated in: the legal values of every state element (10_state.md rule R39), reading
one slot and one byte, what an instruction leaves unchanged, runs of several steps, and a taken jump. -/

namespace Sys2Proof.Machine

open Sys2Proof

/-! ### Legal states -/

/-- A stack of `n` slots whose index names one of them (R24, R25, R35). -/
abbrev Stack.Legal (n : Nat) (st : Stack) : Prop := st.slots.length = n ∧ st.top < n

/-- Core in canonical form, with no byte outside `0 .. CORE_SIZE-1` (R23, R57). -/
abbrev State.LegalCore (s : State) : Prop := Memory.WF s.core ∧ ∀ c ∈ s.core, c.1 < s.params.coreSize

/-- What RICH has and LEAN has not (R20): a return stack of `STACK_SIZE` slots (R25), and in LEAN none, with `acc` at
its inert value (assumption log 5). -/
abbrev State.LegalRich (s : State) : Prop :=
  (s.params.variant = .rich → s.rs.Legal s.params.stackSize) ∧
  (s.params.variant = .lean → s.rs = Stack.absent ∧ s.acc = 0x00)

/-- `reason` and `run` agree (R29, R39), and a reason of the other variant never stands (R200, R201; I10). -/
abbrev State.LegalReason (s : State) : Prop :=
  (s.reason = none ↔ s.run ≠ .panicked) ∧
  (s.params.variant = .rich → s.reason ≠ some (.addressOutOfRange .jpos)) ∧
  (s.params.variant = .lean → s.reason ≠ some (.addressOutOfRange .jeq))

/-- Every state element holds a legal value (R39), under admitted parameters (R6). -/
abbrev State.Legal (s : State) : Prop :=
  s.params.Admitted ∧ s.pc ≤ s.params.coreSize ∧ s.LegalCore ∧ s.ds.Legal s.params.stackSize ∧ s.LegalRich ∧
  s.LegalReason

/-! ### Reading the state, and neighbours of a stack index -/

/-- `dtop`. -/
abbrev State.dtop (s : State) : Nat := s.ds.top

/-- `rtop`. -/
abbrev State.rtop (s : State) : Nat := s.rs.top

/-- `DS[i]`. -/
abbrev State.dsAt (s : State) (i : Nat) : Byte := s.ds.slot i

/-- `RS[i]`. -/
abbrev State.rsAt (s : State) (i : Nat) : Byte := s.rs.slot i

/-- `core[a]`. -/
abbrev State.coreAt (s : State) (a : Nat) : Byte := Memory.read s.core a

/-- "Advancing past the last slot returns to slot 0" (R30), without the modulus. -/
def slotAfter (n i : Nat) : Nat := if i + 1 = n then 0 else i + 1

/-- "Retreating past slot 0 goes to the last slot" (R30), without the modulus. -/
def slotBefore (n i : Nat) : Nat := if i = 0 then n - 1 else i - 1

/-! ### Frames: what an instruction leaves unchanged -/

/-- Every byte of core reads as before. -/
def SameCore (s t : State) : Prop := ∀ a, t.coreAt a = s.coreAt a

/-- Every byte of core but the one at `b` reads as before. -/
def SameCoreBut (b : Nat) (s t : State) : Prop := ∀ a, a ≠ b → t.coreAt a = s.coreAt a

/-- Every slot of the data stack holds what it held. -/
def SameSlots (s t : State) : Prop := ∀ i, t.dsAt i = s.dsAt i

/-- Every slot of the data stack but slot `j` holds what it held. -/
def SameSlotsBut (j : Nat) (s t : State) : Prop := ∀ i, i ≠ j → t.dsAt i = s.dsAt i

/-- The return stack is unchanged, index and slots. -/
def SameReturn (s t : State) : Prop := t.rtop = s.rtop ∧ ∀ i, t.rsAt i = s.rsAt i

/-- `run`, `reason` and the parameters are unchanged. -/
def SameStatus (s t : State) : Prop := t.run = s.run ∧ t.reason = s.reason ∧ t.params = s.params

/-- The fault `r` has been taken (R203), the parameters unchanged. -/
def HasPanicked (r : PanicReason) (s t : State) : Prop :=
  t.run = .panicked ∧ t.reason = some r ∧ t.params = s.params

/-! ### Runs -/

/-- `k` steps of the block, stopping where a step answers no next state. -/
def runFor : Nat → State → Host.Outcome State Fault Refusal
  | 0, s => .next s
  | k + 1, s =>
    match step s with
    | .next t => runFor k t
    | .fault r => .fault r
    | .refused r => .refused r

/-- The handlers of a list of instructions, one after another, with no fetch between. -/
def execAll : List Instr → State → Host.Outcome State Fault Refusal
  | [], s => .next s
  | i :: is, s =>
    match exec i s with
    | .next t => execAll is t
    | .fault r => .fault r
    | .refused r => .refused r

/-- The instruction the next step of a RUNNING state runs, if the fetch and the decoder give one (R92, R93). -/
def State.nextInstr (s : State) : Option Instr :=
  match s.run, fetch s with
  | .running, some (opcode, t) =>
    match decode t.params opcode with
    | .instr i => some i
    | .invalid => none
  | _, _ => none

/-- The next step takes a jump (R22): its row of R97 gives a next `pc`, and the check of that target holds. -/
def State.takesJump (s : State) : Bool :=
  match s.nextInstr with
  | some i =>
    let t := s.setPc (s.pc + 1)
    (controls i t).pcNext.isSome && ((controls i t).failing t).isNone
  | none => false

/-! ### Stacks used many times -/

/-- Pushes of a list of bytes, the first one first. -/
def Stack.pushAll (n : Nat) : List Byte → Stack → Stack
  | [], st => st
  | v :: vs, st => Stack.pushAll n vs (st.push n v)

/-- `k` pops: the bytes popped, the first one first, and the stack left. -/
def Stack.popMany (n : Nat) : Nat → Stack → List Byte × Stack
  | 0, st => ([], st)
  | k + 1, st =>
    let (v, st) := st.pop n
    let (vs, st) := Stack.popMany n k st
    (v :: vs, st)

/-- ONE for a set bit, ZERO for a clear one (R145). -/
def shiftInstrs (bits : List Bool) : List Instr := bits.map fun bit => if bit then .oneLean else .zeroLean

/-- The number whose binary digits are the bits, the first the most significant (R145's `C`). -/
def bitsValue (bits : List Bool) : Nat := bits.foldl (fun c bit => 2 * c + bit.toNat) 0

end Sys2Proof.Machine
end

