-- ==== Sys2Proof/Certificates/Slice0/Obligations.lean ====
section
/-! DEFINITION. The statements for the provers. `n` is `STACK_SIZE`; `slotAfter` and `slotBefore` are the neighbours of a
stack index in the words of R30. A statement about `exec` is about the handler, which starts from the state the fetch
left (40_fetch_decode.md rule R93), so its `pc` is already incremented. -/

open Sys2Proof Sys2Proof.Machine

/-! ### Encoding -/

/-- R74: the decoder answers exactly the instruction of the variant whose byte the map gives, and INVALID where there is
none; a fetched INVALID byte raises InvalidInstruction. -/
def Obligations.DecoderAnswersExactlyTheMap : Prop :=
  ∀ p : Params, p.Admitted → ∀ b : Byte,
    (∀ i, decode p b = .instr i ↔ i.variant = p.variant ∧ p.opcodeMap.at i.mnemonic = b) ∧
    (decode p b = .invalid ↔ ∀ i : Instr, i.variant = p.variant → p.opcodeMap.at i.mnemonic ≠ b) ∧
    ∀ s : State, s.Legal → s.params = p → s.run = .running → s.pc < s.params.coreSize → s.coreAt s.pc = b →
      decode p b = .invalid → ∃ t, step s = .next t ∧ HasPanicked .invalidInstruction s t

/-- Under every admitted map, for every instruction of the instance's variant: its encoding is one byte, and decoding
that byte gives the instruction back (30_encoding.md rules R70, R74, R75). -/
def Obligations.DecodeOfEncodeIsTheInstruction : Prop :=
  ∀ (p : Params) (i : Instr), p.Admitted → i.WellFormed p →
    ∃ b, encode p i = [b] ∧ decode p b = .instr i

/-- The 23 words of the opcode table, written out from R73's default map (the spec's choice D2, assumption log 3). -/
def Obligations.DefaultWordsDecode : Prop :=
  let rich := decode (.reference .rich)
  let lean := decode (.reference .lean)
  rich 0x00 = .instr .noopRich ∧ rich 0x01 = .instr .pushRich ∧ rich 0x02 = .instr .popRich ∧
  rich 0x03 = .instr .rpushRich ∧ rich 0x04 = .instr .rpopRich ∧ rich 0x05 = .instr .addRich ∧
  rich 0x06 = .instr .subRich ∧ rich 0x07 = .instr .loadRich ∧ rich 0x08 = .instr .storRich ∧
  rich 0x09 = .instr .jmpRich ∧ rich 0x0A = .instr .jeqRich ∧ rich 0x0B = .instr .haltRich ∧
  lean 0x00 = .instr .noopLean ∧ lean 0x02 = .instr .popLean ∧ lean 0x05 = .instr .addLean ∧
  lean 0x06 = .instr .subLean ∧ lean 0x07 = .instr .loadLean ∧ lean 0x09 = .instr .jmpLean ∧
  lean 0x0B = .instr .haltLean ∧ lean 0x0C = .instr .dupLean ∧ lean 0x0D = .instr .oneLean ∧
  lean 0x0E = .instr .zeroLean ∧ lean 0x0F = .instr .jposLean

/-- Under every admitted map 244 bytes are illegal in RICH and 245 in LEAN, and under the default map they are the bytes
R76 lists (R76 derives the counts and the lists; the default map is D2, assumption log 3). -/
def Obligations.IllegalBytesAreCountedAndListed : Prop :=
  (∀ p : Params, p.Admitted →
    ((List.range 256).filter fun b => decide (decode p (BitVec.ofNat 8 b) = .invalid)).length =
      match p.variant with
      | .rich => 244
      | .lean => 245) ∧
  (∀ b : Byte, decode (.reference .rich) b = .invalid ↔ 0x0C ≤ b.toNat) ∧
  (∀ b : Byte, decode (.reference .lean) b = .invalid ↔
    b.toNat ∈ [0x01, 0x03, 0x04, 0x08, 0x0A] ∨ 0x10 ≤ b.toNat)

/-- A table word placed by `withFetchWord` is the instruction the very next step runs, whatever the state, as long as it
is RUNNING with `pc` below CORE_SIZE; the state stays legal. That the word selects the variant is the model's choice
(assumption log 11). -/
def Obligations.PlacedTableWordRunsNext : Prop :=
  ∀ (s : State) (nbits w : Nat) (i : Instr), s.Legal → s.run = .running → s.pc < s.params.coreSize →
    decodeTableWord nbits w = some i →
    step (s.withFetchWord nbits w) = exec i ((s.withFetchWord nbits w).setPc (s.pc + 1)) ∧
    (s.withFetchWord nbits w).Legal

/-! ### The step -/

/-- When the byte at `pc` decodes to an instruction, the step is its handler at the state with `pc` incremented
(40_fetch_decode.md rules R90, R92, R93). -/
def Obligations.StepRunsDecodedInstruction : Prop :=
  ∀ (s : State) (i : Instr), s.params.Admitted → s.run = .running → s.pc < s.params.coreSize →
    decode s.params (s.coreAt s.pc) = .instr i → step s = exec i { s with pc := s.pc + 1 }

/-- R92: at `pc >= CORE_SIZE` the fetch faults and nothing else changes, `pc` being `CORE_SIZE`; below it the opcode at
`pc` is read and `pc` incremented; and `pc` reaches `CORE_SIZE` only by that increment. -/
def Obligations.FetchChecksReadsAndIncrements : Prop :=
  ∀ s : State, s.Legal → s.run = .running →
    (s.params.coreSize ≤ s.pc →
      s.pc = s.params.coreSize ∧
      step s = .next { s with run := .panicked, reason := some .programCounterOutOfRange }) ∧
    (s.pc < s.params.coreSize → fetch s = some (s.coreAt s.pc, { s with pc := s.pc + 1 })) ∧
    (∀ t, step s = .next t → s.pc ≠ s.params.coreSize → t.pc = s.params.coreSize → t.pc = s.pc + 1)

/-- An INVALID byte ends the step in InvalidInstruction with `pc` incremented and nothing else changed. That the
increment stays is the spec's decision D9 (R94; assumption log 7). -/
def Obligations.InvalidOpcodePanicsAfterIncrement : Prop :=
  ∀ s : State, s.params.Admitted → s.run = .running → s.pc < s.params.coreSize →
    decode s.params (s.coreAt s.pc) = .invalid →
    step s = .next { s with pc := s.pc + 1, run := .panicked, reason := some .invalidInstruction }

/-- HALTED and PANICKED hold every state element, for any number of steps (R91, R205, R213; the spec's decision D10,
assumption log 6), and only the reset input leaves them. -/
def Obligations.TerminalStatesHoldUntilReset : Prop :=
  ∀ s : State, s.params.Admitted → s.run ≠ .running →
    (∀ k, runFor k s = .next s) ∧ clockEdge false s = .next s ∧ clockEdge true s = .next (State.resetOf s.params)

/-- Parameters outside their admitted range are refused by the step and by the launch (R6; decisions D3, D4). -/
def Obligations.UnadmittedParametersRefused : Prop :=
  (∀ s : State, ¬ s.params.Admitted → step s = .refused .parameterOutOfRange) ∧
  (∀ (p : Params) (image : List Byte), ¬ p.Admitted → launch p image = .refused .parameterOutOfRange)

/-- Every step from a legal state leaves every element at a legal value (R39, the spec's inference), core in canonical
form and the parameters as they were. -/
def Obligations.EveryStepKeepsLegalState : Prop :=
  ∀ s t : State, s.Legal → step s = .next t → t.Legal ∧ t.params = s.params

/-- From a legal state the block never stops with anything but a next state: a fault of the block is a state (R203), and
no byte, operand or stack depth makes the model refuse (R34, R74). -/
def Obligations.LegalStateAlwaysSteps : Prop :=
  ∀ s : State, s.Legal → ∀ k, ∃ t, runFor k s = .next t

/-- `pc` moves by the fetch increment or by a taken jump to a target below CORE_SIZE, never otherwise (R22, R181, the
spec's inference). -/
def Obligations.PcMovesOnlyByFetchAndJump : Prop :=
  ∀ s t : State, s.Legal → s.run = .running → step s = .next t →
    (s.pc = s.params.coreSize ∧ t.pc = s.pc) ∨
    (s.pc < s.params.coreSize ∧ t.pc = s.pc + 1) ∨
    (s.pc < s.params.coreSize ∧ t.pc < s.params.coreSize ∧ t.pc = (s.dsAt s.dtop).toNat ∧
      ∃ i ∈ [Instr.jmpRich, .jmpLean, .jeqRich, .jposLean], decode s.params (s.coreAt s.pc) = .instr i)

/-- `run` becomes HALTED exactly when the step runs HALT, and PANICKED exactly when the fetch, the decoder or the
address check of the instruction's row in R97 fails, with that reason (R28, R206; the reasons of LEAN are D7). -/
def Obligations.StepEndsRunExactlyOnHaltOrFault : Prop :=
  ∀ s t : State, s.Legal → s.run = .running → step s = .next t →
    (t.run = .halted ↔ s.nextInstr = some .haltRich ∨ s.nextInstr = some .haltLean) ∧
    (∀ r, t.run = .panicked ∧ t.reason = some r ↔
      (s.params.coreSize ≤ s.pc ∧ r = .programCounterOutOfRange) ∨
      (s.pc < s.params.coreSize ∧ s.nextInstr = none ∧ r = .invalidInstruction) ∨
      (∃ i op, s.nextInstr = some i ∧ (controls i s).failing s = some op ∧ r = .addressOutOfRange op))

/-- A fault leaves what the statements before the failing check left: no core byte, slot, accumulator or return stack
write, the incremented `pc`, and the pops (R204). That the pops and the increment stay is the spec's decision D9
(assumption log 7); the LEAN reasons are D7 (assumption log 8). -/
def Obligations.FaultLeavesOnlyIncrementAndPops : Prop :=
  ∀ s t : State, s.Legal → s.run = .running → step s = .next t → t.run = .panicked →
    SameCore s t ∧ SameSlots s t ∧ SameReturn s t ∧ t.acc = s.acc ∧
    ((t.reason = some .programCounterOutOfRange ∧ t.pc = s.pc ∧ t.dtop = s.dtop) ∨
     (t.reason = some .invalidInstruction ∧ t.pc = s.pc + 1 ∧ t.dtop = s.dtop) ∨
     (∃ op, t.reason = some (.addressOutOfRange op) ∧ t.pc = s.pc + 1 ∧
       t.dtop = match s.params.variant, op with
         | .rich, _ => slotBefore s.params.stackSize s.dtop
         | .lean, .load => s.dtop
         | .lean, .jump => slotBefore s.params.stackSize s.dtop
         | .lean, _ => slotBefore s.params.stackSize (slotBefore s.params.stackSize s.dtop)))

/-- A run that takes no jump has ended within CORE_SIZE + 1 steps of any legal state (R187, the spec's inference). -/
def Obligations.RunWithoutJumpEnds : Prop :=
  ∀ s : State, s.Legal →
    (∀ k t, k ≤ s.params.coreSize → runFor k s = .next t → t.takesJump = false) →
    ∃ t, runFor (s.params.coreSize + 1) s = .next t ∧ t.run ≠ .running

/-- The pseudocode handlers are the datapath table of R97, row by row and for every STACK_SIZE >= 1 (the spec's
inference; R98, R99). -/
def Obligations.HandlersRefineDatapathTable : Prop :=
  ∀ (i : Instr) (s : State), s.Legal → i.WellFormed s.params → exec i s = .next (datapath i s)

/-! ### Reset, launch and outputs -/

/-- R37: the reset values, for every instance. -/
def Obligations.ResetGivesConstructorValues : Prop :=
  ∀ s : State, let r := s.applyReset
    r.pc = 0 ∧ (∀ a, r.coreAt a = 0x00) ∧
    r.ds.slots.length = s.params.stackSize ∧ (∀ i, i < s.params.stackSize → r.dsAt i = 0x00) ∧ r.dtop = 0 ∧
    (s.params.variant = .rich →
      r.rs.slots.length = s.params.stackSize ∧ (∀ i, i < s.params.stackSize → r.rsAt i = 0x00) ∧ r.rtop = 0 ∧
      r.acc = 0x00) ∧
    r.run = .running ∧ r.reason = none

/-- Every reset state under admitted parameters is legal (R37, R39), and `State.reset` is the one of the reference RICH
instance, which is the model's choice (assumption log 1). -/
def Obligations.ResetStateIsLegal : Prop :=
  State.reset = State.resetOf (.reference .rich) ∧ State.reset.Legal ∧ ∀ p : Params, p.Admitted → (State.resetOf p).Legal

/-- The launch state is the reset state with core replaced by IMAGE, and is legal (R232; the spec's decision D13). An
image longer than core is refused, the model's choice (assumption log 10). -/
def Obligations.LaunchReplacesCoreByImage : Prop :=
  ∀ (p : Params) (image : List Byte), p.Admitted →
    (image.length ≤ p.coreSize → ∃ s, launch p image = .next s ∧ s.Legal ∧
      (∀ a, s.coreAt a = image.getD a 0x00) ∧ s.setCore [] = State.resetOf p) ∧
    (p.coreSize < image.length → launch p image = .refused .imageTooLong)

/-- R234, for every instance: the launch with an IMAGE of zeros is the reset state, and from it CORE_SIZE NOOPs run, `pc`
rising from 0; the next fetch faults with ProgramCounterOutOfRange, all other state at its reset value. -/
def Obligations.ZeroCoreRunsNoopsThenFaults : Prop :=
  ∀ p : Params, p.Admitted →
    launch p (List.replicate p.coreSize 0x00) = .next (State.resetOf p) ∧
    (∀ k, k ≤ p.coreSize → runFor k (State.resetOf p) = .next { State.resetOf p with pc := k }) ∧
    runFor (p.coreSize + 1) (State.resetOf p) =
      .next { State.resetOf p with
        pc := p.coreSize, run := .panicked, reason := some .programCounterOutOfRange }

/-- `pc` always fits its register: PC_W is the least width whose values exceed CORE_SIZE (R6, R21; decision D5). -/
def Obligations.PcFitsLeastRegisterWidth : Prop :=
  ∀ s : State, s.Legal →
    s.pc < 2 ^ s.params.pcWidth ∧ ∀ w, s.params.coreSize < 2 ^ w → s.params.pcWidth ≤ w

/-- The outputs are the codes of R201's two tables, they tell every loop state and every reason apart, status 0b11 is
never driven, and the execution result is OK exactly in HALTED and PANIC with the reason exactly in PANICKED (R96, R201;
the codes are the spec's decision D14, assumption log 14). -/
def Obligations.OutputsTellResultApart : Prop :=
  (∀ s : State, let p := ports s
    (s.run = .running → p.status = 0b00) ∧ (s.run = .halted → p.status = 0b01) ∧
    (s.run = .panicked → p.status = 0b10) ∧
    (s.reason = none → p.faultCode = 0) ∧
    (s.reason = some .programCounterOutOfRange → p.faultCode = 1) ∧
    (s.reason = some .invalidInstruction → p.faultCode = 2) ∧
    (s.reason = some (.addressOutOfRange .load) → p.faultCode = 3) ∧
    (s.reason = some (.addressOutOfRange .stor) → p.faultCode = 4) ∧
    (s.reason = some (.addressOutOfRange .jump) → p.faultCode = 5) ∧
    (s.reason = some (.addressOutOfRange .jeq) → p.faultCode = 6) ∧
    (s.reason = some (.addressOutOfRange .jpos) → p.faultCode = 7)) ∧
  (∀ s t : State, ports s = ports t ↔ s.run = t.run ∧ s.reason = t.reason) ∧
  ∀ s : State, s.Legal →
    (ports s).status ≠ 0b11 ∧
    (executionResult s = some .ok ↔ s.run = .halted) ∧
    (∀ r, executionResult s = some (.panic r) ↔ s.run = .panicked ∧ s.reason = some r) ∧
    (executionResult s = none ↔ s.run = .running)

/-! ### Memory and the stack controller -/

/-- A stored byte is what every later fetch of its address reads, the next one among them, and every other address reads
as before: STOR and the LEAN POP (R62, R238, the spec's inference). -/
def Obligations.StoreSeenByNextFetch : Prop :=
  ∀ (s : State) (i : Instr) (a v : Byte), s.Legal →
    (i = .storRich ∧ a = s.dsAt s.dtop ∧ v = s.acc ∨
     i = .popLean ∧ a = s.dsAt (slotBefore s.params.stackSize s.dtop) ∧ v = s.dsAt s.dtop) →
    a.toNat < s.params.coreSize →
    ∃ t, exec i s = .next t ∧ SameCoreBut a.toNat s t ∧ t.run = s.run ∧
      fetch (t.setPc a.toNat) = some (v, t.setPc (a.toNat + 1))

/-- R30: the index arithmetic of the stacks. -/
def Obligations.StackIndexWraps : Prop :=
  ∀ n i : Nat, i < n →
    Stack.inc n i = (if i + 1 = n then 0 else i + 1) ∧ Stack.dec n i = (if i = 0 then n - 1 else i - 1) ∧
    Stack.inc 1 0 = 0 ∧ Stack.dec 1 0 = 0

/-- R31: push advances the top index and then writes at the new one, and nothing else. -/
def Obligations.PushAdvancesThenWrites : Prop :=
  ∀ (n : Nat) (v : Byte) (st : Stack), st.Legal n →
    (st.push n v).top = slotAfter n st.top ∧ (st.push n v).slot (slotAfter n st.top) = v ∧
    (∀ i, i ≠ slotAfter n st.top → (st.push n v).slot i = st.slot i) ∧ (st.push n v).Legal n

/-- R32: pop reads the byte at the top and then retreats the index, leaving every slot unchanged. -/
def Obligations.PopReadsThenRetreats : Prop :=
  ∀ (n : Nat) (st : Stack), st.Legal n →
    (st.pop n).1 = st.slot st.top ∧ (st.pop n).2.top = slotBefore n st.top ∧
    (∀ i, (st.pop n).2.slot i = st.slot i) ∧ (st.pop n).2.Legal n

/-- The circular stack is LIFO over its last STACK_SIZE bytes: pops give the newest first, and after STACK_SIZE of them
the newest again, the older ones being lost (R31, R32, R34; C1, C2, and W2 of 95_test_vectors.md). -/
def Obligations.StackReturnsNewestFirst : Prop :=
  ∀ (n : Nat) (vs : List Byte) (st : Stack), st.Legal n →
    (∀ k, k ≤ n → k ≤ vs.length → (Stack.popMany n k (Stack.pushAll n vs st)).1 = vs.reverse.take k) ∧
    (vs.length ≤ n → (Stack.popMany n vs.length (Stack.pushAll n vs st)).2.top = st.top) ∧
    (n ≤ vs.length →
      (Stack.popMany n (n + 1) (Stack.pushAll n vs st)).1 = vs.reverse.take n ++ vs.reverse.take 1)

/-! ### Who reads and writes what -/

/-- R25: the return stack has STACK_SIZE slots and an index in range, and no instruction but RPUSH and RPOP reads or
writes it: running it from any other return stack gives the same state but for that return stack. -/
def Obligations.ReturnStackIsForRpushAndRpop : Prop :=
  (∀ s : State, s.Legal → s.params.variant = .rich →
    s.rs.slots.length = s.params.stackSize ∧ s.rtop < s.params.stackSize) ∧
  (∀ (i : Instr) (s : State) (r : Stack), i ≠ .rpushRich → i ≠ .rpopRich →
    ∃ t, exec i s = .next t ∧ t.rs = s.rs ∧ exec i { s with rs := r } = .next { t with rs := r })

/-- The accumulator is read by PUSH, RPUSH, STOR and JEQ alone and written by POP, RPOP and LOAD of RICH alone (R26,
R36, C6). -/
def Obligations.AccumulatorReadersAndWriters : Prop :=
  ∀ (i : Instr) (s : State) (v : Byte),
    (i ∉ [Instr.popRich, .rpopRich, .loadRich] → ∃ t, exec i s = .next t ∧ t.acc = s.acc) ∧
    (i ∉ [Instr.pushRich, .rpushRich, .storRich, .jeqRich] →
      ∃ t, exec i s = .next t ∧ (exec i { s with acc := v } = .next t ∨
        exec i { s with acc := v } = .next { t with acc := v }))

/-- Core is written by STOR and the LEAN POP alone, and read by the two LOADs alone, apart from the fetch (R36, R50).
From any other core, an instruction that neither loads nor stores gives the same state but for that core, and a store
gives the same state but for that core with the same byte at the same address. -/
def Obligations.CoreReadersAndWriters : Prop :=
  ∀ (i : Instr) (s : State) (m : List Host.Cell),
    (i ≠ .storRich → i ≠ .popLean → ∃ t, exec i s = .next t ∧ SameCore s t) ∧
    (i ≠ .storRich → i ≠ .popLean → i ≠ .loadRich → i ≠ .loadLean →
      ∃ t, exec i s = .next t ∧ exec i { s with core := m } = .next { t with core := m }) ∧
    ∀ a v : Byte, s.Legal →
      (i = .storRich ∧ a = s.dsAt s.dtop ∧ v = s.acc ∨
       i = .popLean ∧ a = s.dsAt (slotBefore s.params.stackSize s.dtop) ∧ v = s.dsAt s.dtop) →
      ∃ t m', exec i s = .next t ∧ exec i { s with core := m } = .next { t with core := m' } ∧
        (a.toNat < s.params.coreSize →
          t.coreAt a.toNat = v ∧ SameCoreBut a.toNat s t ∧
          Memory.read m' a.toNat = v ∧ ∀ b, b ≠ a.toNat → Memory.read m' b = Memory.read m b) ∧
        (s.params.coreSize ≤ a.toNat → SameCore s t ∧ m' = m)

/-! ### No operation and the stack transfers (41_stack_transfer.md) -/

/-- NOOP changes nothing, in both variants, so its step's only effect is the fetch increment of `pc` (R120; LEAN
membership D6). -/
def Obligations.NoopOnlyIncrementsPc : Prop :=
  ∀ (s : State) (i : Instr), i = .noopRich ∨ i = .noopLean →
    exec i s = .next s ∧
    (s.params.Admitted → s.run = .running → s.pc < s.params.coreSize →
      decode s.params (s.coreAt s.pc) = .instr i → step s = .next { s with pc := s.pc + 1 })

/-- R121: PUSH. The default opcode is R73's (D2, assumption log 3). -/
def Obligations.PushPushesAccumulator : Prop :=
  ∀ s : State, s.Legal → encode (.reference .rich) .pushRich = [0x01] ∧
    ∃ t, exec .pushRich s = .next t ∧
      t.dtop = slotAfter s.params.stackSize s.dtop ∧ t.dsAt t.dtop = s.acc ∧ SameSlotsBut t.dtop s t ∧
      t.acc = s.acc ∧ t.pc = s.pc ∧ SameReturn s t ∧ SameCore s t ∧ SameStatus s t

/-- R122: POP, RICH form. The default opcode is R73's (D2, assumption log 3). -/
def Obligations.PopMovesTopToAccumulator : Prop :=
  ∀ s : State, s.Legal → encode (.reference .rich) .popRich = [0x02] ∧
    encode (.reference .lean) .popLean = [0x02] ∧
    ∃ t, exec .popRich s = .next t ∧
      t.acc = s.dsAt s.dtop ∧ t.dtop = slotBefore s.params.stackSize s.dtop ∧ SameSlots s t ∧
      t.pc = s.pc ∧ SameReturn s t ∧ SameCore s t ∧ SameStatus s t

/-- R123: RPUSH. The default opcode is R73's (D2, assumption log 3). -/
def Obligations.RpushPushesOntoReturnStack : Prop :=
  ∀ s : State, s.Legal → s.params.variant = .rich → encode (.reference .rich) .rpushRich = [0x03] ∧
    ∃ t, exec .rpushRich s = .next t ∧
      t.rtop = slotAfter s.params.stackSize s.rtop ∧ t.rsAt t.rtop = s.acc ∧
      (∀ i, i ≠ t.rtop → t.rsAt i = s.rsAt i) ∧
      t.dtop = s.dtop ∧ SameSlots s t ∧ t.acc = s.acc ∧ t.pc = s.pc ∧ SameCore s t ∧ SameStatus s t

/-- R124: RPOP. The default opcode is R73's (D2, assumption log 3). -/
def Obligations.RpopPopsReturnStack : Prop :=
  ∀ s : State, s.Legal → s.params.variant = .rich → encode (.reference .rich) .rpopRich = [0x04] ∧
    ∃ t, exec .rpopRich s = .next t ∧
      t.acc = s.rsAt s.rtop ∧ t.rtop = slotBefore s.params.stackSize s.rtop ∧ (∀ i, t.rsAt i = s.rsAt i) ∧
      t.dtop = s.dtop ∧ SameSlots s t ∧ t.pc = s.pc ∧ SameCore s t ∧ SameStatus s t

/-- R126: DUP, read as 90_conflicts.md C5 reads it. The default opcode is R73's (D2, assumption log 3). -/
def Obligations.DupPushesCopyOfTop : Prop :=
  ∀ s : State, s.Legal → encode (.reference .lean) .dupLean = [0x0C] ∧
    ∃ t, exec .dupLean s = .next t ∧
      t.dtop = slotAfter s.params.stackSize s.dtop ∧ t.dsAt t.dtop = s.dsAt s.dtop ∧ SameSlotsBut t.dtop s t ∧
      (s.params.stackSize = 1 → t = s) ∧
      t.acc = s.acc ∧ t.pc = s.pc ∧ SameReturn s t ∧ SameCore s t ∧ SameStatus s t

/-! ### The ALU (42_alu.md) -/

/-- R10: `+8` and `-8` are exact arithmetic mod 256, with the same result bits under the signed reading. -/
def Obligations.AluWrapsUnderBothReadings : Prop :=
  ∀ a b : Byte,
    (aluAdd a b).toNat = (a.toNat + b.toNat) % 256 ∧
    ((aluSub a b).toNat : Int) = (a.toNat - b.toNat + 256) % 256 ∧
    aluAdd a b = byte (sgn a + sgn b) ∧ aluSub a b = byte (sgn a - sgn b)

/-- ADD replaces the top two by their sum, in both variants; the old top stays as a stale byte, unless STACK_SIZE is 1
(R141, with the spec's inference of the net effect; LEAN membership D6). -/
def Obligations.AddReplacesTopTwo : Prop :=
  ∀ (s : State) (i : Instr), s.Legal → i = .addRich ∨ i = .addLean →
    ∃ t, exec i s = .next t ∧
      t.dtop = slotBefore s.params.stackSize s.dtop ∧
      (t.dsAt t.dtop).toNat = ((s.dsAt t.dtop).toNat + (s.dsAt s.dtop).toNat) % 256 ∧ SameSlotsBut t.dtop s t ∧
      t.acc = s.acc ∧ t.pc = s.pc ∧ SameReturn s t ∧ SameCore s t ∧ SameStatus s t

/-- SUB replaces the top two by the second minus the top, in both variants (R142, with the spec's inference of the net
effect; LEAN membership D6). -/
def Obligations.SubReplacesTopTwo : Prop :=
  ∀ (s : State) (i : Instr), s.Legal → i = .subRich ∨ i = .subLean →
    ∃ t, exec i s = .next t ∧
      t.dtop = slotBefore s.params.stackSize s.dtop ∧
      (t.dsAt t.dtop).toNat = ((s.dsAt t.dtop).toNat + 256 - (s.dsAt s.dtop).toNat) % 256 ∧
      (s.params.stackSize = 1 → t.dsAt t.dtop = 0x00) ∧ SameSlotsBut t.dtop s t ∧
      t.acc = s.acc ∧ t.pc = s.pc ∧ SameReturn s t ∧ SameCore s t ∧ SameStatus s t

/-- R143: ONE shifts the top left and sets its low bit; bit 7 is discarded, and eight of them leave 0xFF.
The default opcode is R73's (D2, assumption log 3). -/
def Obligations.OneShiftsInSetBit : Prop :=
  ∀ s : State, s.Legal → encode (.reference .lean) .oneLean = [0x0D] ∧
    ∃ t, exec .oneLean s = .next t ∧
      t.dtop = s.dtop ∧ t.dsAt s.dtop = (s.dsAt s.dtop).extractLsb' 0 7 ++ 1#1 ∧
      (t.dsAt s.dtop).toNat = (2 * (s.dsAt s.dtop).toNat + 1) % 256 ∧ SameSlotsBut s.dtop s t ∧
      (∃ u, execAll (List.replicate 8 .oneLean) s = .next u ∧ u.dsAt s.dtop = 0xFF) ∧
      t.acc = s.acc ∧ t.pc = s.pc ∧ SameReturn s t ∧ SameCore s t ∧ SameStatus s t

/-- R144: ZERO shifts the top left and clears its low bit; bit 7 is discarded, and eight of them leave 0x00.
The default opcode is R73's (D2, assumption log 3). -/
def Obligations.ZeroShiftsInClearBit : Prop :=
  ∀ s : State, s.Legal → encode (.reference .lean) .zeroLean = [0x0E] ∧
    ∃ t, exec .zeroLean s = .next t ∧
      t.dtop = s.dtop ∧ t.dsAt s.dtop = (s.dsAt s.dtop).extractLsb' 0 7 ++ 0#1 ∧
      (t.dsAt s.dtop).toNat = (2 * (s.dsAt s.dtop).toNat) % 256 ∧ SameSlotsBut s.dtop s t ∧
      (∃ u, execAll (List.replicate 8 .zeroLean) s = .next u ∧ u.dsAt s.dtop = 0x00) ∧
      t.acc = s.acc ∧ t.pc = s.pc ∧ SameReturn s t ∧ SameCore s t ∧ SameStatus s t

/-- A sequence of k ONE and ZERO leaves `byte(old * 2^k + C)` on top, and for k >= 8 `byte(C)`, whatever the old value;
nothing else changes (R145, the spec's inference). -/
def Obligations.ShiftSequenceBuildsConstant : Prop :=
  ∀ (s : State) (bits : List Bool), s.Legal →
    ∃ t, execAll (shiftInstrs bits) s = .next t ∧
      (t.dsAt s.dtop).toNat = ((s.dsAt s.dtop).toNat * 2 ^ bits.length + bitsValue bits) % 256 ∧
      (8 ≤ bits.length → (t.dsAt s.dtop).toNat = bitsValue bits % 256) ∧
      t.dtop = s.dtop ∧ SameSlotsBut s.dtop s t ∧
      t.acc = s.acc ∧ t.pc = s.pc ∧ SameReturn s t ∧ SameCore s t ∧ SameStatus s t

/-- The macro SETB n assembles to eight bytes of LEAN, whose instructions leave exactly `byte(n)` on top, whatever it
held (R79, the spec's notation D17). -/
def Obligations.SetbLeavesByteOnTop : Prop :=
  ∀ (s : State) (v : Int), s.Legal → s.params.variant = .lean →
    ∃ bytes is t, assemble s.params (setb v) = some bytes ∧ bytes.length = 8 ∧
      bytes.map (decode s.params) = is.map Decoded.instr ∧ execAll is s = .next t ∧
      ((t.dsAt t.dtop).toNat : Int) = v % 256 ∧ t.dtop = s.dtop ∧ SameSlotsBut s.dtop s t ∧ SameCore s t

/-! ### Memory access (43_memory_access.md) -/

/-- LOAD of RICH: below CORE_SIZE the byte goes to `acc`; at and above it the fault, with the pop done (R160; what
stands after the fault is the spec's decision D9). -/
def Obligations.LoadRichReadsOrFaults : Prop :=
  ∀ s : State, s.Legal → let a := (s.dsAt s.dtop).toNat
    (a < s.params.coreSize → ∃ t, exec .loadRich s = .next t ∧
      t.acc = s.coreAt a ∧ t.dtop = slotBefore s.params.stackSize s.dtop ∧ SameSlots s t ∧
      t.pc = s.pc ∧ SameReturn s t ∧ SameCore s t ∧ SameStatus s t) ∧
    (s.params.coreSize ≤ a → ∃ t, exec .loadRich s = .next t ∧ HasPanicked (.addressOutOfRange .load) s t ∧
      t.acc = s.acc ∧ t.dtop = slotBefore s.params.stackSize s.dtop ∧ SameSlots s t ∧
      t.pc = s.pc ∧ SameReturn s t ∧ SameCore s t)

/-- STOR: below CORE_SIZE the byte of core at the popped address becomes `acc`; at and above it the fault, with the pop
done and core unchanged (R162; what stands after the fault is the spec's decision D9). -/
def Obligations.StorWritesOrFaults : Prop :=
  ∀ s : State, s.Legal → let a := (s.dsAt s.dtop).toNat
    (a < s.params.coreSize → ∃ t, exec .storRich s = .next t ∧
      t.coreAt a = s.acc ∧ SameCoreBut a s t ∧ t.dtop = slotBefore s.params.stackSize s.dtop ∧ SameSlots s t ∧
      t.acc = s.acc ∧ t.pc = s.pc ∧ SameReturn s t ∧ SameStatus s t) ∧
    (s.params.coreSize ≤ a → ∃ t, exec .storRich s = .next t ∧ HasPanicked (.addressOutOfRange .stor) s t ∧
      SameCore s t ∧ t.dtop = slotBefore s.params.stackSize s.dtop ∧ SameSlots s t ∧
      t.acc = s.acc ∧ t.pc = s.pc ∧ SameReturn s t)

/-- LOAD of LEAN: the top is the address and becomes the byte read, `dtop` staying; at and above CORE_SIZE the fault,
with nothing else changed (R164, R165; the reason is the spec's decision D7). -/
def Obligations.LoadLeanReplacesTopOrFaults : Prop :=
  ∀ s : State, s.Legal → let a := (s.dsAt s.dtop).toNat
    (a < s.params.coreSize → ∃ t, exec .loadLean s = .next t ∧
      t.dsAt s.dtop = s.coreAt a ∧ t.dtop = s.dtop ∧ SameSlotsBut s.dtop s t ∧
      t.acc = s.acc ∧ t.pc = s.pc ∧ SameReturn s t ∧ SameCore s t ∧ SameStatus s t) ∧
    (s.params.coreSize ≤ a → ∃ t, exec .loadLean s = .next t ∧ HasPanicked (.addressOutOfRange .load) s t ∧
      t.dtop = s.dtop ∧ SameSlots s t ∧ t.acc = s.acc ∧ t.pc = s.pc ∧ SameReturn s t ∧ SameCore s t)

/-- POP of LEAN, the store: the top goes to core at the address in the slot below; both are popped; at and above
CORE_SIZE the fault, with both pops done (R166; the reason and the pops are the spec's decisions D7 and D9). -/
def Obligations.PopLeanStoresOrFaults : Prop :=
  ∀ s : State, s.Legal → let below := slotBefore s.params.stackSize s.dtop
    let a := (s.dsAt below).toNat
    (a < s.params.coreSize → ∃ t, exec .popLean s = .next t ∧
      t.coreAt a = s.dsAt s.dtop ∧ SameCoreBut a s t ∧ t.dtop = slotBefore s.params.stackSize below ∧
      SameSlots s t ∧ t.acc = s.acc ∧ t.pc = s.pc ∧ SameReturn s t ∧ SameStatus s t) ∧
    (s.params.coreSize ≤ a → ∃ t, exec .popLean s = .next t ∧ HasPanicked (.addressOutOfRange .stor) s t ∧
      SameCore s t ∧ t.dtop = slotBefore s.params.stackSize below ∧ SameSlots s t ∧
      t.acc = s.acc ∧ t.pc = s.pc ∧ SameReturn s t)

/-! ### Control transfer (44_control_transfer.md) -/

/-- JMP, in both variants: below CORE_SIZE `pc` becomes the popped address; at and above it the fault, `pc` keeping its
value (R180; LEAN membership D6, the pop after a fault D9). -/
def Obligations.JmpJumpsOrFaults : Prop :=
  ∀ (s : State) (i : Instr), s.Legal → i = .jmpRich ∨ i = .jmpLean → let a := (s.dsAt s.dtop).toNat
    ∃ t, exec i s = .next t ∧
      (a < s.params.coreSize → t.pc = a ∧ SameStatus s t) ∧
      (s.params.coreSize ≤ a → t.pc = s.pc ∧ HasPanicked (.addressOutOfRange .jump) s t) ∧
      t.dtop = slotBefore s.params.stackSize s.dtop ∧ SameSlots s t ∧ t.acc = s.acc ∧ SameReturn s t ∧ SameCore s t

/-- JEQ: the address is always popped; with `acc` zero the jump is taken, or faults at and above CORE_SIZE; with `acc`
not zero `pc` falls through and no address faults (R182; the pop after a fault is the spec's decision D9). -/
def Obligations.JeqJumpsExactlyOnZero : Prop :=
  ∀ s : State, s.Legal → let a := (s.dsAt s.dtop).toNat
    ∃ t, exec .jeqRich s = .next t ∧
      (s.acc ≠ 0x00 → t.pc = s.pc ∧ SameStatus s t) ∧
      (s.acc = 0x00 → a < s.params.coreSize → t.pc = a ∧ SameStatus s t) ∧
      (s.acc = 0x00 → s.params.coreSize ≤ a → t.pc = s.pc ∧ HasPanicked (.addressOutOfRange .jeq) s t) ∧
      t.dtop = slotBefore s.params.stackSize s.dtop ∧ SameSlots s t ∧ t.acc = s.acc ∧ SameReturn s t ∧ SameCore s t

/-- JPOS: target and test are always popped; with a test of 0x00..0x7F the jump is taken, or faults at and above
CORE_SIZE; with a test of 0x80..0xFF `pc` falls through and no address faults (R184, R185; the reason D7, the unchecked
discarded address D8, the pops after a fault D9). -/
def Obligations.JposJumpsExactlyOnNonNegative : Prop :=
  ∀ s : State, s.Legal → let below := slotBefore s.params.stackSize s.dtop
    let a := (s.dsAt s.dtop).toNat
    let test := (s.dsAt below).toNat
    ∃ t, exec .jposLean s = .next t ∧
      (128 ≤ test → t.pc = s.pc ∧ SameStatus s t) ∧
      (test < 128 → a < s.params.coreSize → t.pc = a ∧ SameStatus s t) ∧
      (test < 128 → s.params.coreSize ≤ a → t.pc = s.pc ∧ HasPanicked (.addressOutOfRange .jpos) s t) ∧
      t.dtop = slotBefore s.params.stackSize below ∧ SameSlots s t ∧ t.acc = s.acc ∧ SameReturn s t ∧ SameCore s t

/-- HALT, in both variants: `run` becomes HALTED, and nothing else changes (R186; LEAN membership D6). -/
def Obligations.HaltHaltsAndKeepsTheRest : Prop :=
  ∀ (s : State) (i : Instr), i = .haltRich ∨ i = .haltLean →
    ∃ t, exec i s = .next t ∧ t.run = .halted ∧ t.reason = s.reason ∧ t.params = s.params ∧ t.pc = s.pc ∧
      t.dtop = s.dtop ∧ SameSlots s t ∧ t.acc = s.acc ∧ SameReturn s t ∧ SameCore s t
end

