-- ==== Sys2Proof/Laws/State.lean ====
section
/-! SUPPORT. One lemma for each field of the state and each update of it, so that no later proof unfolds a record
update. -/

namespace Sys2Proof.Machine

open Sys2Proof

/-! ### `setPc` -/

@[simp] theorem State.setPc_params (a : Nat) (s : State) : (s.setPc a).params = s.params := rfl

@[simp] theorem State.setPc_pc (a : Nat) (s : State) : (s.setPc a).pc = a := rfl

@[simp] theorem State.setPc_core (a : Nat) (s : State) : (s.setPc a).core = s.core := rfl

@[simp] theorem State.setPc_ds (a : Nat) (s : State) : (s.setPc a).ds = s.ds := rfl

@[simp] theorem State.setPc_rs (a : Nat) (s : State) : (s.setPc a).rs = s.rs := rfl

@[simp] theorem State.setPc_acc (a : Nat) (s : State) : (s.setPc a).acc = s.acc := rfl

@[simp] theorem State.setPc_run (a : Nat) (s : State) : (s.setPc a).run = s.run := rfl

@[simp] theorem State.setPc_reason (a : Nat) (s : State) : (s.setPc a).reason = s.reason := rfl

/-! ### `setCore` -/

@[simp] theorem State.setCore_params (m : List Host.Cell) (s : State) : (s.setCore m).params = s.params := rfl

@[simp] theorem State.setCore_pc (m : List Host.Cell) (s : State) : (s.setCore m).pc = s.pc := rfl

@[simp] theorem State.setCore_core (m : List Host.Cell) (s : State) : (s.setCore m).core = m := rfl

@[simp] theorem State.setCore_ds (m : List Host.Cell) (s : State) : (s.setCore m).ds = s.ds := rfl

@[simp] theorem State.setCore_rs (m : List Host.Cell) (s : State) : (s.setCore m).rs = s.rs := rfl

@[simp] theorem State.setCore_acc (m : List Host.Cell) (s : State) : (s.setCore m).acc = s.acc := rfl

@[simp] theorem State.setCore_run (m : List Host.Cell) (s : State) : (s.setCore m).run = s.run := rfl

@[simp] theorem State.setCore_reason (m : List Host.Cell) (s : State) : (s.setCore m).reason = s.reason := rfl

/-! ### `setDs` -/

@[simp] theorem State.setDs_params (st : Stack) (s : State) : (s.setDs st).params = s.params := rfl

@[simp] theorem State.setDs_pc (st : Stack) (s : State) : (s.setDs st).pc = s.pc := rfl

@[simp] theorem State.setDs_core (st : Stack) (s : State) : (s.setDs st).core = s.core := rfl

@[simp] theorem State.setDs_ds (st : Stack) (s : State) : (s.setDs st).ds = st := rfl

@[simp] theorem State.setDs_rs (st : Stack) (s : State) : (s.setDs st).rs = s.rs := rfl

@[simp] theorem State.setDs_acc (st : Stack) (s : State) : (s.setDs st).acc = s.acc := rfl

@[simp] theorem State.setDs_run (st : Stack) (s : State) : (s.setDs st).run = s.run := rfl

@[simp] theorem State.setDs_reason (st : Stack) (s : State) : (s.setDs st).reason = s.reason := rfl

/-! ### `setRs` -/

@[simp] theorem State.setRs_params (st : Stack) (s : State) : (s.setRs st).params = s.params := rfl

@[simp] theorem State.setRs_pc (st : Stack) (s : State) : (s.setRs st).pc = s.pc := rfl

@[simp] theorem State.setRs_core (st : Stack) (s : State) : (s.setRs st).core = s.core := rfl

@[simp] theorem State.setRs_ds (st : Stack) (s : State) : (s.setRs st).ds = s.ds := rfl

@[simp] theorem State.setRs_rs (st : Stack) (s : State) : (s.setRs st).rs = st := rfl

@[simp] theorem State.setRs_acc (st : Stack) (s : State) : (s.setRs st).acc = s.acc := rfl

@[simp] theorem State.setRs_run (st : Stack) (s : State) : (s.setRs st).run = s.run := rfl

@[simp] theorem State.setRs_reason (st : Stack) (s : State) : (s.setRs st).reason = s.reason := rfl

/-! ### `setAcc` -/

@[simp] theorem State.setAcc_params (v : Byte) (s : State) : (s.setAcc v).params = s.params := rfl

@[simp] theorem State.setAcc_pc (v : Byte) (s : State) : (s.setAcc v).pc = s.pc := rfl

@[simp] theorem State.setAcc_core (v : Byte) (s : State) : (s.setAcc v).core = s.core := rfl

@[simp] theorem State.setAcc_ds (v : Byte) (s : State) : (s.setAcc v).ds = s.ds := rfl

@[simp] theorem State.setAcc_rs (v : Byte) (s : State) : (s.setAcc v).rs = s.rs := rfl

@[simp] theorem State.setAcc_acc (v : Byte) (s : State) : (s.setAcc v).acc = v := rfl

@[simp] theorem State.setAcc_run (v : Byte) (s : State) : (s.setAcc v).run = s.run := rfl

@[simp] theorem State.setAcc_reason (v : Byte) (s : State) : (s.setAcc v).reason = s.reason := rfl

/-! ### `halt` -/

@[simp] theorem State.halt_params (s : State) : (s.halt).params = s.params := rfl

@[simp] theorem State.halt_pc (s : State) : (s.halt).pc = s.pc := rfl

@[simp] theorem State.halt_core (s : State) : (s.halt).core = s.core := rfl

@[simp] theorem State.halt_ds (s : State) : (s.halt).ds = s.ds := rfl

@[simp] theorem State.halt_rs (s : State) : (s.halt).rs = s.rs := rfl

@[simp] theorem State.halt_acc (s : State) : (s.halt).acc = s.acc := rfl

@[simp] theorem State.halt_run (s : State) : (s.halt).run = .halted := rfl

@[simp] theorem State.halt_reason (s : State) : (s.halt).reason = s.reason := rfl

/-! ### `panic` -/

@[simp] theorem State.panic_params (r : PanicReason) (s : State) : (s.panic r).params = s.params := rfl

@[simp] theorem State.panic_pc (r : PanicReason) (s : State) : (s.panic r).pc = s.pc := rfl

@[simp] theorem State.panic_core (r : PanicReason) (s : State) : (s.panic r).core = s.core := rfl

@[simp] theorem State.panic_ds (r : PanicReason) (s : State) : (s.panic r).ds = s.ds := rfl

@[simp] theorem State.panic_rs (r : PanicReason) (s : State) : (s.panic r).rs = s.rs := rfl

@[simp] theorem State.panic_acc (r : PanicReason) (s : State) : (s.panic r).acc = s.acc := rfl

@[simp] theorem State.panic_run (r : PanicReason) (s : State) : (s.panic r).run = .panicked := rfl

@[simp] theorem State.panic_reason (r : PanicReason) (s : State) : (s.panic r).reason = some r := rfl

/-! ### `memWrite` -/

@[simp] theorem State.memWrite_params (a : Nat) (v : Byte) (s : State) : (s.memWrite a v).params = s.params := rfl

@[simp] theorem State.memWrite_pc (a : Nat) (v : Byte) (s : State) : (s.memWrite a v).pc = s.pc := rfl

@[simp] theorem State.memWrite_core (a : Nat) (v : Byte) (s : State) : (s.memWrite a v).core = Memory.write s.core a v := rfl

@[simp] theorem State.memWrite_ds (a : Nat) (v : Byte) (s : State) : (s.memWrite a v).ds = s.ds := rfl

@[simp] theorem State.memWrite_rs (a : Nat) (v : Byte) (s : State) : (s.memWrite a v).rs = s.rs := rfl

@[simp] theorem State.memWrite_acc (a : Nat) (v : Byte) (s : State) : (s.memWrite a v).acc = s.acc := rfl

@[simp] theorem State.memWrite_run (a : Nat) (v : Byte) (s : State) : (s.memWrite a v).run = s.run := rfl

@[simp] theorem State.memWrite_reason (a : Nat) (v : Byte) (s : State) : (s.memWrite a v).reason = s.reason := rfl

/-! ### `pushD` -/

@[simp] theorem State.pushD_params (v : Byte) (s : State) : (s.pushD v).params = s.params := rfl

@[simp] theorem State.pushD_pc (v : Byte) (s : State) : (s.pushD v).pc = s.pc := rfl

@[simp] theorem State.pushD_core (v : Byte) (s : State) : (s.pushD v).core = s.core := rfl

@[simp] theorem State.pushD_ds (v : Byte) (s : State) : (s.pushD v).ds = s.ds.push s.params.stackSize v := rfl

@[simp] theorem State.pushD_rs (v : Byte) (s : State) : (s.pushD v).rs = s.rs := rfl

@[simp] theorem State.pushD_acc (v : Byte) (s : State) : (s.pushD v).acc = s.acc := rfl

@[simp] theorem State.pushD_run (v : Byte) (s : State) : (s.pushD v).run = s.run := rfl

@[simp] theorem State.pushD_reason (v : Byte) (s : State) : (s.pushD v).reason = s.reason := rfl

/-! ### `setTopD` -/

@[simp] theorem State.setTopD_params (v : Byte) (s : State) : (s.setTopD v).params = s.params := rfl

@[simp] theorem State.setTopD_pc (v : Byte) (s : State) : (s.setTopD v).pc = s.pc := rfl

@[simp] theorem State.setTopD_core (v : Byte) (s : State) : (s.setTopD v).core = s.core := rfl

@[simp] theorem State.setTopD_ds (v : Byte) (s : State) : (s.setTopD v).ds = s.ds.setTop v := rfl

@[simp] theorem State.setTopD_rs (v : Byte) (s : State) : (s.setTopD v).rs = s.rs := rfl

@[simp] theorem State.setTopD_acc (v : Byte) (s : State) : (s.setTopD v).acc = s.acc := rfl

@[simp] theorem State.setTopD_run (v : Byte) (s : State) : (s.setTopD v).run = s.run := rfl

@[simp] theorem State.setTopD_reason (v : Byte) (s : State) : (s.setTopD v).reason = s.reason := rfl

/-! ### `pushR` -/

@[simp] theorem State.pushR_params (v : Byte) (s : State) : (s.pushR v).params = s.params := rfl

@[simp] theorem State.pushR_pc (v : Byte) (s : State) : (s.pushR v).pc = s.pc := rfl

@[simp] theorem State.pushR_core (v : Byte) (s : State) : (s.pushR v).core = s.core := rfl

@[simp] theorem State.pushR_ds (v : Byte) (s : State) : (s.pushR v).ds = s.ds := rfl

@[simp] theorem State.pushR_rs (v : Byte) (s : State) : (s.pushR v).rs = s.rs.push s.params.stackSize v := rfl

@[simp] theorem State.pushR_acc (v : Byte) (s : State) : (s.pushR v).acc = s.acc := rfl

@[simp] theorem State.pushR_run (v : Byte) (s : State) : (s.pushR v).run = s.run := rfl

@[simp] theorem State.pushR_reason (v : Byte) (s : State) : (s.pushR v).reason = s.reason := rfl

/-! ### Pops, reads and resets -/

@[simp] theorem State.popD_eq (s : State) :
    s.popD = (s.ds.peek, s.setDs (s.ds.pop s.params.stackSize).2) := rfl

@[simp] theorem State.popR_eq (s : State) :
    s.popR = (s.rs.peek, s.setRs (s.rs.pop s.params.stackSize).2) := rfl

@[simp] theorem State.topD_eq (s : State) : s.topD = s.ds.peek := rfl

@[simp] theorem State.memRead_eq (a : Nat) (s : State) : s.memRead a = Memory.read s.core a := rfl

@[simp] theorem State.resetOf_params (p : Params) : (State.resetOf p).params = p := rfl

@[simp] theorem State.resetOf_pc (p : Params) : (State.resetOf p).pc = 0 := rfl

@[simp] theorem State.resetOf_core (p : Params) : (State.resetOf p).core = [] := rfl

@[simp] theorem State.resetOf_ds (p : Params) : (State.resetOf p).ds = Stack.zeroed p.stackSize := rfl

@[simp] theorem State.resetOf_rs (p : Params) : (State.resetOf p).rs = Stack.returnReset p.variant p.stackSize := rfl

@[simp] theorem State.resetOf_acc (p : Params) : (State.resetOf p).acc = 0x00 := rfl

@[simp] theorem State.resetOf_run (p : Params) : (State.resetOf p).run = .running := rfl

@[simp] theorem State.resetOf_reason (p : Params) : (State.resetOf p).reason = none := rfl

end Sys2Proof.Machine
end

