-- ==== Sys2Proof/Laws/Ops.lean ====
section
/-! SUPPORT. What the shared operations can do, said once: the guarded access, the jump, the fetch, the decoder and the
step. -/

namespace Sys2Proof.Machine

open Sys2Proof

theorem State.checked_inCore {a : Byte} {s : State} (op : AddressUse) (rest : State → State)
    (h : a.toNat < s.params.coreSize) : s.checked a op rest = rest s := by
  simp [State.checked, State.addressInCore, uns, h]

theorem State.checked_outOfCore {a : Byte} {s : State} (op : AddressUse) (rest : State → State)
    (h : s.params.coreSize ≤ a.toNat) : s.checked a op rest = s.panic (.addressOutOfRange op) := by
  simp [State.checked, State.addressInCore, uns, Nat.not_lt.2 h]

/-- The two ways a guarded access ends. -/
theorem State.checked_cases (a : Byte) (op : AddressUse) (rest : State → State) (s : State) :
    (a.toNat < s.params.coreSize ∧ s.checked a op rest = rest s) ∨
    (s.params.coreSize ≤ a.toNat ∧ s.checked a op rest = s.panic (.addressOutOfRange op)) := by
  rcases Nat.lt_or_ge a.toNat s.params.coreSize with h | h
  · exact .inl ⟨h, State.checked_inCore op rest h⟩
  · exact .inr ⟨h, State.checked_outOfCore op rest h⟩

/-- The two ways a taken jump ends. -/
theorem State.jumpTo_cases (a : Byte) (op : AddressUse) (s : State) :
    (a.toNat < s.params.coreSize ∧ s.jumpTo a op = s.setPc a.toNat) ∨
    (s.params.coreSize ≤ a.toNat ∧ s.jumpTo a op = s.panic (.addressOutOfRange op)) :=
  State.checked_cases a op _ s

theorem fetch_inCore {s : State} (h : s.pc < s.params.coreSize) :
    fetch s = some (Memory.read s.core s.pc, s.setPc (s.pc + 1)) := by
  simp [fetch, State.pcInCore, h]

theorem fetch_atEnd {s : State} (h : s.params.coreSize ≤ s.pc) : fetch s = none := by
  simp [fetch, State.pcInCore, Nat.not_lt.2 h]

/-- What an answer of the decoder says about the instruction. -/
theorem decode_instr {p : Params} {b : Byte} {i : Instr} (h : decode p b = .instr i) :
    i ∈ p.variant.instrs ∧ p.opcode i = b := by
  unfold decode at h
  split at h
  · next j hj =>
    cases h
    exact ⟨List.mem_of_find?_eq_some hj, by simpa using List.find?_some hj⟩
  · cases h

/-- Every step that answers a next state is one of these five. -/
theorem step_cases {s t : State} (h : step s = .next t) :
    s.params.Admitted ∧
    ((s.run ≠ .running ∧ t = s) ∨
     (s.run = .running ∧ s.params.coreSize ≤ s.pc ∧ t = s.panic .programCounterOutOfRange) ∨
     (s.run = .running ∧ s.pc < s.params.coreSize ∧ decode s.params (Memory.read s.core s.pc) = .invalid ∧
       t = (s.setPc (s.pc + 1)).panic .invalidInstruction) ∨
     (s.run = .running ∧ s.pc < s.params.coreSize ∧ ∃ i, decode s.params (Memory.read s.core s.pc) = .instr i ∧
       exec i (s.setPc (s.pc + 1)) = .next t)) := by
  unfold step at h
  split at h
  · next hp =>
    refine ⟨hp, ?_⟩
    cases hr : s.run with
    | running =>
      rw [hr] at h
      rcases Nat.lt_or_ge s.pc s.params.coreSize with hc | hc
      · rw [fetch_inCore hc] at h
        simp only [State.setPc_params] at h
        split at h
        · next i hi => exact .inr (.inr (.inr ⟨rfl, hc, i, hi, h⟩))
        · next hi => cases h; exact .inr (.inr (.inl ⟨rfl, hc, hi, rfl⟩))
      · rw [fetch_atEnd hc] at h; cases h
        exact .inr (.inl ⟨rfl, hc, rfl⟩)
    | halted => rw [hr] at h; cases h; exact .inl ⟨by simp, rfl⟩
    | panicked => rw [hr] at h; cases h; exact .inl ⟨by simp, rfl⟩
  · cases h

/-- Every handler answers a next state, in every state: a fault of the block is a state. -/
theorem exec_next (i : Instr) (s : State) : ∃ t, exec i s = .next t := by
  cases i <;> exact ⟨_, rfl⟩

end Sys2Proof.Machine
end

