-- ==== Sys2Proof/Laws/Stack.lean ====
section
/-! SUPPORT. The laws of the circular stack controller: where the index goes, what each slot then holds, and that every
operation keeps a stack legal. -/

namespace Sys2Proof.Machine

open Sys2Proof

theorem Stack.inc_lt {n : Nat} (i : Nat) (h : 0 < n) : Stack.inc n i < n := Nat.mod_lt _ h

theorem Stack.dec_lt {n : Nat} (i : Nat) (h : 0 < n) : Stack.dec n i < n := Nat.mod_lt _ h

theorem Stack.inc_eq {n i : Nat} (h : i < n) : Stack.inc n i = slotAfter n i := by
  unfold Stack.inc slotAfter
  split
  · next e => rw [e, Nat.mod_self]
  · exact Nat.mod_eq_of_lt (by omega)

theorem Stack.dec_eq {n i : Nat} (h : i < n) : Stack.dec n i = slotBefore n i := by
  unfold Stack.dec slotBefore
  split
  · next e => subst e; rw [Nat.zero_add]; exact Nat.mod_eq_of_lt (by omega)
  · rw [show i + n - 1 = i - 1 + n by omega, Nat.add_mod_right]
    exact Nat.mod_eq_of_lt (by omega)

theorem Stack.dec_inc {n i : Nat} (h : i < n) : Stack.dec n (Stack.inc n i) = i := by
  rw [Stack.dec_eq (Stack.inc_lt i (by omega)), Stack.inc_eq h]
  unfold slotBefore slotAfter
  split <;> split at * <;> omega

theorem Stack.inc_dec {n i : Nat} (h : i < n) : Stack.inc n (Stack.dec n i) = i := by
  rw [Stack.inc_eq (Stack.dec_lt i (by omega)), Stack.dec_eq h]
  unfold slotBefore slotAfter
  split <;> split at * <;> omega

@[simp] theorem Stack.setTop_top (v : Byte) (st : Stack) : (st.setTop v).top = st.top := rfl

@[simp] theorem Stack.push_top (n : Nat) (v : Byte) (st : Stack) : (st.push n v).top = Stack.inc n st.top := rfl

@[simp] theorem Stack.pop_fst (n : Nat) (st : Stack) : (st.pop n).1 = st.peek := rfl

@[simp] theorem Stack.pop_top (n : Nat) (st : Stack) : (st.pop n).2.top = Stack.dec n st.top := rfl

@[simp] theorem Stack.pop_slots (n : Nat) (st : Stack) : (st.pop n).2.slots = st.slots := rfl

@[simp] theorem Stack.pop_slot (n i : Nat) (st : Stack) : (st.pop n).2.slot i = st.slot i := rfl

@[simp] theorem Stack.peek_eq (st : Stack) : st.peek = st.slot st.top := rfl

theorem Stack.slot_set (st : Stack) (i j t : Nat) (v : Byte) (h : i < st.slots.length) :
    Stack.slot { slots := st.slots.set i v, top := t } j = if j = i then v else st.slot j := by
  simp only [Stack.slot, List.getD_eq_getElem?_getD, List.getElem?_set]
  by_cases e : j = i
  · subst e; simp [h]
  · simp [e, Ne.symm e]

/-- Every slot after a write to the top. -/
theorem Stack.setTop_slot {n : Nat} {st : Stack} (v : Byte) (h : st.Legal n) (j : Nat) :
    (st.setTop v).slot j = if j = st.top then v else st.slot j :=
  Stack.slot_set st st.top j st.top v (h.1 ▸ h.2)

/-- Every slot after a push. -/
theorem Stack.push_slot {n : Nat} {st : Stack} (v : Byte) (h : st.Legal n) (j : Nat) :
    (st.push n v).slot j = if j = Stack.inc n st.top then v else st.slot j :=
  Stack.slot_set st (Stack.inc n st.top) j _ v (h.1.symm ▸ Stack.inc_lt _ (Nat.lt_of_le_of_lt (Nat.zero_le _) h.2))

theorem Stack.legal_setTop {n : Nat} {st : Stack} (v : Byte) (h : st.Legal n) : (st.setTop v).Legal n :=
  ⟨by simp [Stack.setTop, h.1], h.2⟩

theorem Stack.legal_push {n : Nat} {st : Stack} (v : Byte) (h : st.Legal n) : (st.push n v).Legal n :=
  ⟨by simp [Stack.push, Stack.setTop, h.1], Stack.inc_lt _ (Nat.lt_of_le_of_lt (Nat.zero_le _) h.2)⟩

theorem Stack.legal_pop {n : Nat} {st : Stack} (h : st.Legal n) : (st.pop n).2.Legal n :=
  ⟨h.1, Stack.dec_lt _ (Nat.lt_of_le_of_lt (Nat.zero_le _) h.2)⟩

theorem Stack.legal_zeroed {n : Nat} (h : 0 < n) : (Stack.zeroed n).Legal n := ⟨by simp [Stack.zeroed], h⟩

@[simp] theorem Stack.zeroed_slot (n i : Nat) : (Stack.zeroed n).slot i = 0x00 := by
  simp only [Stack.slot, Stack.zeroed, List.getD_eq_getElem?_getD, List.getElem?_replicate]
  split <;> rfl

end Sys2Proof.Machine
end

