-- ==== Sys2Proof/Laws/Exec.lean ====
section
/-! SUPPORT. The state each handler answers, written with one update per state element that changes: proofs about an
instruction rewrite with its equation here and never unfold its meaning. -/

namespace Sys2Proof.Machine

open Sys2Proof

/-- The data stack after one pop. -/
abbrev State.ds1 (s : State) : Stack := (s.ds.pop s.params.stackSize).2

/-- The data stack after two pops. -/
abbrev State.ds2 (s : State) : Stack := (s.ds1.pop s.params.stackSize).2

/-- The byte below the top of the data stack (R97's `x1`). -/
abbrev State.below (s : State) : Byte := s.ds.slot (Stack.dec s.params.stackSize s.ds.top)

theorem State.checked_eq (a : Byte) (op : AddressUse) (rest : State → State) (s : State) :
    s.checked a op rest = if a.toNat < s.params.coreSize then rest s else s.panic (.addressOutOfRange op) := by
  rcases State.checked_cases a op rest s with ⟨h, e⟩ | ⟨h, e⟩
  · rw [if_pos h, e]
  · rw [if_neg (Nat.not_lt.2 h), e]

theorem isNonNegative_eq (b : Byte) : isNonNegative b = decide (b.toNat < 128) := by
  have h := b.isLt
  unfold isNonNegative sgn
  rw [BitVec.toInt_eq_toNat_cond, decide_eq_decide]
  split <;> omega

theorem exec_noopRich (s : State) : exec .noopRich s = .next s := rfl

theorem exec_noopLean (s : State) : exec .noopLean s = .next s := rfl

theorem exec_pushRich (s : State) : exec .pushRich s = .next (s.pushD s.acc) := rfl

theorem exec_popRich (s : State) : exec .popRich s = .next ((s.setDs s.ds1).setAcc (s.ds.slot s.ds.top)) := rfl

theorem exec_rpushRich (s : State) : exec .rpushRich s = .next (s.pushR s.acc) := rfl

theorem exec_rpopRich (s : State) :
    exec .rpopRich s = .next ((s.setRs (s.rs.pop s.params.stackSize).2).setAcc (s.rs.slot s.rs.top)) := rfl

theorem exec_dupLean (s : State) : exec .dupLean s = .next (s.pushD (s.ds.slot s.ds.top)) := rfl

theorem exec_addRich (s : State) :
    exec .addRich s = .next (s.setDs (s.ds2.push s.params.stackSize (aluAdd s.below (s.ds.slot s.ds.top)))) := rfl

theorem exec_addLean (s : State) :
    exec .addLean s = .next (s.setDs (s.ds2.push s.params.stackSize (aluAdd s.below (s.ds.slot s.ds.top)))) := rfl

theorem exec_subRich (s : State) :
    exec .subRich s = .next (s.setDs (s.ds2.push s.params.stackSize (aluSub s.below (s.ds.slot s.ds.top)))) := rfl

theorem exec_subLean (s : State) :
    exec .subLean s = .next (s.setDs (s.ds2.push s.params.stackSize (aluSub s.below (s.ds.slot s.ds.top)))) := rfl

theorem exec_oneLean (s : State) : exec .oneLean s = .next (s.setTopD (shiftInsert true (s.ds.slot s.ds.top))) := rfl

theorem exec_zeroLean (s : State) : exec .zeroLean s = .next (s.setTopD (shiftInsert false (s.ds.slot s.ds.top))) := rfl

theorem exec_loadRich (s : State) :
    exec .loadRich s = .next (if (s.ds.slot s.ds.top).toNat < s.params.coreSize
      then (s.setDs s.ds1).setAcc (Memory.read s.core (s.ds.slot s.ds.top).toNat)
      else (s.setDs s.ds1).panic (.addressOutOfRange .load)) :=
  congrArg Host.Outcome.next (State.checked_eq ..)

theorem exec_storRich (s : State) :
    exec .storRich s = .next (if (s.ds.slot s.ds.top).toNat < s.params.coreSize
      then (s.setDs s.ds1).memWrite (s.ds.slot s.ds.top).toNat s.acc
      else (s.setDs s.ds1).panic (.addressOutOfRange .stor)) :=
  congrArg Host.Outcome.next (State.checked_eq ..)

theorem exec_loadLean (s : State) :
    exec .loadLean s = .next (if (s.ds.slot s.ds.top).toNat < s.params.coreSize
      then s.setTopD (Memory.read s.core (s.ds.slot s.ds.top).toNat)
      else s.panic (.addressOutOfRange .load)) :=
  congrArg Host.Outcome.next (State.checked_eq ..)

theorem exec_popLean (s : State) :
    exec .popLean s = .next (if s.below.toNat < s.params.coreSize
      then (s.setDs s.ds2).memWrite s.below.toNat (s.ds.slot s.ds.top)
      else (s.setDs s.ds2).panic (.addressOutOfRange .stor)) :=
  congrArg Host.Outcome.next (State.checked_eq ..)

theorem exec_jmpRich (s : State) :
    exec .jmpRich s = .next (if (s.ds.slot s.ds.top).toNat < s.params.coreSize
      then (s.setDs s.ds1).setPc (s.ds.slot s.ds.top).toNat
      else (s.setDs s.ds1).panic (.addressOutOfRange .jump)) :=
  congrArg Host.Outcome.next (State.checked_eq ..)

theorem exec_jmpLean (s : State) :
    exec .jmpLean s = .next (if (s.ds.slot s.ds.top).toNat < s.params.coreSize
      then (s.setDs s.ds1).setPc (s.ds.slot s.ds.top).toNat
      else (s.setDs s.ds1).panic (.addressOutOfRange .jump)) :=
  congrArg Host.Outcome.next (State.checked_eq ..)

theorem exec_jeqRich (s : State) :
    exec .jeqRich s = .next (if s.acc = 0x00
      then if (s.ds.slot s.ds.top).toNat < s.params.coreSize
        then (s.setDs s.ds1).setPc (s.ds.slot s.ds.top).toNat
        else (s.setDs s.ds1).panic (.addressOutOfRange .jeq)
      else s.setDs s.ds1) := by
  have e : exec .jeqRich s = .next (if (s.acc == 0x00) = true
      then (s.setDs s.ds1).jumpTo (s.ds.slot s.ds.top) .jeq else s.setDs s.ds1) := rfl
  rw [e, State.jumpTo, State.checked_eq]
  by_cases hz : s.acc = 0x00 <;> by_cases hc : (s.ds.slot s.ds.top).toNat < s.params.coreSize <;> simp [uns, hz, hc]

theorem exec_jposLean (s : State) :
    exec .jposLean s = .next (if s.below.toNat < 128
      then if (s.ds.slot s.ds.top).toNat < s.params.coreSize
        then (s.setDs s.ds2).setPc (s.ds.slot s.ds.top).toNat
        else (s.setDs s.ds2).panic (.addressOutOfRange .jpos)
      else s.setDs s.ds2) := by
  have e : exec .jposLean s = .next (if isNonNegative s.below = true
      then (s.setDs s.ds2).jumpTo (s.ds.slot s.ds.top) .jpos else s.setDs s.ds2) := rfl
  rw [e, State.jumpTo, State.checked_eq, isNonNegative_eq]
  by_cases hz : s.below.toNat < 128 <;> by_cases hc : (s.ds.slot s.ds.top).toNat < s.params.coreSize <;>
    simp [uns, hz, hc]

theorem exec_haltRich (s : State) : exec .haltRich s = .next s.halt := rfl

theorem exec_haltLean (s : State) : exec .haltLean s = .next s.halt := rfl

end Sys2Proof.Machine
end

