-- ==== Sys2Proof/Laws/Memory.lean ====
section
/-! SUPPORT. The laws of core memory: a read after a write, and that every operation keeps the canonical form. -/

namespace Sys2Proof.Machine

open Sys2Proof

@[simp] theorem Memory.read_nil (a : Nat) : Memory.read [] a = 0x00 := rfl

theorem Memory.read_insert (m : List Host.Cell) (a b : Nat) (v : Byte) :
    Memory.read (Memory.insert m a v) b = if b = a then v else Memory.read m b := by
  induction m with
  | nil =>
    by_cases h : b = a
    · simp [Memory.insert, Memory.read, h]
    · simp [Memory.insert, Memory.read, h, Ne.symm h]
  | cons c m ih =>
    simp only [Memory.insert]
    split
    · by_cases h : b = a
      · simp [Memory.read, h]
      · simp [Memory.read, h, Ne.symm h]
    · split
      · rename_i h1 h2
        subst h2
        by_cases h : b = c.1
        · simp [Memory.read, h]
        · simp [Memory.read, h, Ne.symm h]
      · rename_i h1 h2
        simp only [Memory.read, ih]
        by_cases h : b = a
        · subst h; simp [Ne.symm h2]
        · simp [h]

theorem Memory.read_erase (m : List Host.Cell) (a b : Nat) :
    Memory.read (Memory.erase m a) b = if b = a then 0x00 else Memory.read m b := by
  induction m with
  | nil => simp [Memory.erase, Memory.read, Memory.unlisted]
  | cons c m ih =>
    unfold Memory.erase at ih ⊢
    by_cases hc : c.1 = a
    · simp only [List.filter_cons, hc, bne_self_eq_false, Bool.false_eq_true, if_false, ih, Memory.read]
      by_cases h : b = a
      · simp [h]
      · simp [h, Ne.symm h]
    · have hc' : (c.1 != a) = true := by simpa using hc
      simp only [List.filter_cons, hc', if_true, Memory.read, ih]
      by_cases h : b = a
      · subst h; simp [hc]
      · simp [h]

/-- Everything a write does, seen through reads of one byte. -/
@[simp] theorem Memory.read_write (m : List Host.Cell) (a b : Nat) (v : Byte) :
    Memory.read (Memory.write m a v) b = if b = a then v else Memory.read m b := by
  unfold Memory.write
  split
  · next h => rw [Memory.read_erase, h]; rfl
  · exact Memory.read_insert m a b v

theorem Memory.mem_insert {m : List Host.Cell} {a : Nat} {v : Byte} {c : Host.Cell} (h : c ∈ Memory.insert m a v) :
    c = (a, v) ∨ c ∈ m := by
  induction m with
  | nil => simpa [Memory.insert] using h
  | cons d m ih =>
    simp only [Memory.insert] at h
    split at h
    · simpa using h
    · split at h
      · rcases List.mem_cons.1 h with h | h <;> simp [h]
      · rcases List.mem_cons.1 h with h | h
        · simp [h]
        · rcases ih h with h | h <;> simp [h]

theorem Memory.insert_sorted {m : List Host.Cell} (a : Nat) (v : Byte) (h : m.Pairwise fun c d => c.1 < d.1) :
    (Memory.insert m a v).Pairwise fun c d => c.1 < d.1 := by
  induction m with
  | nil => simp [Memory.insert]
  | cons c m ih =>
    rw [List.pairwise_cons] at h
    simp only [Memory.insert]
    split
    · next hlt =>
      refine List.pairwise_cons.2 ⟨fun d hd => ?_, List.pairwise_cons.2 h⟩
      rcases List.mem_cons.1 hd with rfl | hd
      · exact hlt
      · exact Nat.lt_trans hlt (h.1 d hd)
    · split
      · next heq => exact List.pairwise_cons.2 ⟨fun d hd => heq ▸ h.1 d hd, h.2⟩
      · refine List.pairwise_cons.2 ⟨fun d hd => ?_, ih h.2⟩
        rcases Memory.mem_insert hd with rfl | hd
        · show c.1 < a; omega
        · exact h.1 d hd

theorem Memory.wf_nil : Memory.WF [] := ⟨List.Pairwise.nil, fun _ h => absurd h (List.not_mem_nil)⟩

/-- A write keeps the canonical form. -/
theorem Memory.wf_write {m : List Host.Cell} (a : Nat) (v : Byte) (h : Memory.WF m) :
    Memory.WF (Memory.write m a v) := by
  unfold Memory.write
  split
  · exact ⟨h.1.filter _, fun c hc => h.2 c (List.mem_filter.1 hc).1⟩
  · next hv =>
    refine ⟨Memory.insert_sorted a v h.1, fun c hc => ?_⟩
    rcases Memory.mem_insert hc with rfl | hc
    · exact hv
    · exact h.2 c hc

/-- A write lists no address but the one written. -/
theorem Memory.mem_write {m : List Host.Cell} {a : Nat} {v : Byte} {c : Host.Cell} (h : c ∈ Memory.write m a v) :
    c = (a, v) ∨ c ∈ m := by
  unfold Memory.write at h
  split at h
  · exact .inr (List.mem_filter.1 h).1
  · exact Memory.mem_insert h

theorem Memory.le_of_mem_ofImage {image : List Byte} {a : Nat} {c : Host.Cell} (h : c ∈ Memory.ofImage image a) :
    a ≤ c.1 ∧ c.1 < a + image.length ∧ c.2 ≠ 0x00 := by
  induction image generalizing a with
  | nil => simp [Memory.ofImage] at h
  | cons b image ih =>
    simp only [Memory.ofImage] at h
    split at h
    · have := ih h
      exact ⟨by omega, by rw [List.length_cons]; omega, this.2.2⟩
    · next hb =>
      rcases List.mem_cons.1 h with rfl | h
      · exact ⟨Nat.le_refl _, by simp, hb⟩
      · have := ih h
        exact ⟨by omega, by rw [List.length_cons]; omega, this.2.2⟩

/-- The image in core is in canonical form. -/
theorem Memory.wf_ofImage (image : List Byte) (a : Nat) : Memory.WF (Memory.ofImage image a) := by
  refine ⟨?_, fun c hc => (Memory.le_of_mem_ofImage hc).2.2⟩
  induction image generalizing a with
  | nil => exact List.Pairwise.nil
  | cons b image ih =>
    simp only [Memory.ofImage]
    split
    · exact ih (a + 1)
    · exact List.pairwise_cons.2 ⟨fun d hd => (Memory.le_of_mem_ofImage hd).1, ih (a + 1)⟩

/-- What the image in core reads as. -/
theorem Memory.read_ofImage (image : List Byte) (a b : Nat) :
    Memory.read (Memory.ofImage image a) b = if a ≤ b then image.getD (b - a) 0x00 else 0x00 := by
  induction image generalizing a with
  | nil => simp [Memory.ofImage]
  | cons x image ih =>
    have step : ∀ m : List Host.Cell, Memory.read m b = Memory.read (Memory.ofImage image (a + 1)) b → b ≠ a →
        Memory.read m b = if a ≤ b then (x :: image).getD (b - a) 0x00 else 0x00 := by
      intro m hm hne
      rw [hm, ih]
      by_cases h : a + 1 ≤ b
      · obtain ⟨d, rfl⟩ := Nat.exists_eq_add_of_le h
        have e1 : a + 1 + d - a = d + 1 := by omega
        have e2 : a ≤ a + 1 + d := by omega
        simp [e1, e2]
      · simp [h, show ¬ a ≤ b by omega]
    simp only [Memory.ofImage]
    by_cases hb : b = a
    · subst hb
      split
      · next hx => rw [ih]; simp [hx, Memory.unlisted]
      · simp [Memory.read]
    · split
      · exact step _ rfl hb
      · exact step _ (by simp [Memory.read, Ne.symm hb]) hb

end Sys2Proof.Machine
end

