-- ==== Sys2Proof/Laws/PerInstr.lean ====
section
/-! SUPPORT. A family over the instructions as syntax: the default encoding (30_encoding.md rule R73) of each row is one
byte, and the decoder of the row's variant reads that byte as the row. -/

namespace Sys2Proof.Laws.DefaultEncoding

open Sys2Proof

/-- The row's encoding under the default map is one byte and decodes to the row. -/
def Statement (i : Instr) : Prop :=
  (encode (.reference i.variant) i).map (decode (.reference i.variant)) = [.instr i]

theorem noopRich : Statement .noopRich := by unfold Statement; decide

theorem pushRich : Statement .pushRich := by unfold Statement; decide

theorem popRich : Statement .popRich := by unfold Statement; decide

theorem rpushRich : Statement .rpushRich := by unfold Statement; decide

theorem rpopRich : Statement .rpopRich := by unfold Statement; decide

theorem addRich : Statement .addRich := by unfold Statement; decide

theorem subRich : Statement .subRich := by unfold Statement; decide

theorem loadRich : Statement .loadRich := by unfold Statement; decide

theorem storRich : Statement .storRich := by unfold Statement; decide

theorem jmpRich : Statement .jmpRich := by unfold Statement; decide

theorem jeqRich : Statement .jeqRich := by unfold Statement; decide

theorem haltRich : Statement .haltRich := by unfold Statement; decide

theorem noopLean : Statement .noopLean := by unfold Statement; decide

theorem popLean : Statement .popLean := by unfold Statement; decide

theorem addLean : Statement .addLean := by unfold Statement; decide

theorem subLean : Statement .subLean := by unfold Statement; decide

theorem loadLean : Statement .loadLean := by unfold Statement; decide

theorem jmpLean : Statement .jmpLean := by unfold Statement; decide

theorem haltLean : Statement .haltLean := by unfold Statement; decide

theorem dupLean : Statement .dupLean := by unfold Statement; decide

theorem oneLean : Statement .oneLean := by unfold Statement; decide

theorem zeroLean : Statement .zeroLean := by unfold Statement; decide

theorem jposLean : Statement .jposLean := by unfold Statement; decide

end Sys2Proof.Laws.DefaultEncoding
end

