-- ==== Sys2Proof/Tests/Slice0.lean ====
section
/-! SUPPORT. Tests of one step each, their expected results from the vectors of 95_test_vectors.md, the words of the
default map, the ill-formed terms the checks refuse, and a witness for the hypotheses of every statement. -/

namespace Sys2Proof.Tests

open Sys2Proof Sys2Proof.Machine

/-! ### Small states -/

/-- Bytes placed in the slots of a stack. -/
def place (slots : List Byte) (at_ : List (Nat × Byte)) : List Byte :=
  at_.foldl (fun l c => l.set c.1 c.2) slots

/-- A state of an instance with parameters `p`: reset, but for the bytes of core, the data stack and its index. -/
def stateOf (p : Params) (core : List Host.Cell) (slots : List (Nat × Byte)) (dtop : Nat) : State :=
  { State.resetOf p with core := core, ds := { slots := place (State.resetOf p).ds.slots slots, top := dtop } }

/-- RICH, reference sizes, one opcode at address 0. -/
def rich (opcode : Byte) (slots : List (Nat × Byte)) (dtop : Nat) (acc : Byte) : State :=
  { stateOf (.reference .rich) (Memory.write [] 0 opcode) slots dtop with acc := acc }

/-- LEAN, reference sizes, one opcode at address 0. -/
def lean (opcode : Byte) (slots : List (Nat × Byte)) (dtop : Nat) : State :=
  stateOf (.reference .lean) (Memory.write [] 0 opcode) slots dtop

/-- The reference parameters with another stack size. -/
def sized (v : Variant) (n : Nat) : Params := { Params.reference v with stackSize := n }

/-- The next state satisfies the check. -/
def nextIs (o : Host.Outcome State Fault Refusal) (check : State → Bool) : Bool :=
  match o with
  | .next t => check t
  | .fault _ => false
  | .refused _ => false

/-- The step ends in the fault `r`, with the check on what else stands. -/
def panics (o : Host.Outcome State Fault Refusal) (r : PanicReason) (check : State → Bool) : Bool :=
  nextIs o fun t => t.run == .panicked && t.reason == some r && check t

/-! ### Well-formedness refuses (R6, R75, R74) -/

theorem test_reference_admitted : (Params.reference .rich).Admitted ∧ (Params.reference .lean).Admitted := by decide

theorem test_core_size_bounds : ¬ ({ Params.reference .rich with coreSize := 0 } : Params).Admitted ∧
    ¬ ({ Params.reference .rich with coreSize := 257 } : Params).Admitted ∧
    ({ Params.reference .rich with coreSize := 256 } : Params).Admitted := by decide

theorem test_stack_size_bounds : ¬ (sized .rich 0).Admitted ∧ ¬ (sized .rich 257).Admitted ∧
    (sized .rich 1).Admitted := by decide

theorem test_map_noop_not_zero : ¬ ({ OpcodeMap.default with noop := 0x10 } : OpcodeMap).WellFormed := by decide

theorem test_map_rich_clash : ¬ ({ OpcodeMap.default with push := 0x08 } : OpcodeMap).WellFormed := by decide

theorem test_map_lean_clash : ¬ ({ OpcodeMap.default with dup := 0x0F } : OpcodeMap).WellFormed := by decide

theorem test_map_other_bytes : ({ OpcodeMap.default with dup := 0x01, halt := 0xFF } : OpcodeMap).WellFormed := by decide

theorem test_instr_of_other_variant : ¬ Instr.WellFormed .popLean (.reference .rich) ∧
    Instr.WellFormed .popRich (.reference .rich) := by decide

/-! ### Words written out from R73 -/

theorem test_words_rich : ([0x00, 0x01, 0x02, 0x03, 0x04, 0x05, 0x06, 0x07, 0x08, 0x09, 0x0A, 0x0B].map
    (decode (.reference .rich))) = [.instr .noopRich, .instr .pushRich, .instr .popRich, .instr .rpushRich,
    .instr .rpopRich, .instr .addRich, .instr .subRich, .instr .loadRich, .instr .storRich, .instr .jmpRich,
    .instr .jeqRich, .instr .haltRich] := by decide

theorem test_words_lean : ([0b00000000, 0b00000010, 0b00000101, 0b00000110, 0b00000111, 0b00001001, 0b00001011,
    0b00001100, 0b00001101, 0b00001110, 0b00001111].map (decode (.reference .lean))) = [.instr .noopLean,
    .instr .popLean, .instr .addLean, .instr .subLean, .instr .loadLean, .instr .jmpLean, .instr .haltLean,
    .instr .dupLean, .instr .oneLean, .instr .zeroLean, .instr .jposLean] := by decide

theorem test_words_illegal : decode (.reference .rich) 0x0C = .invalid ∧ decode (.reference .rich) 0xFF = .invalid ∧
    decode (.reference .lean) 0x01 = .invalid ∧ decode (.reference .lean) 0x08 = .invalid ∧
    decode (.reference .lean) 0x10 = .invalid := by decide

theorem test_table_words : decodeTableWord 8 0x02 = some .popRich ∧ decodeTableWord 8 0x0F = some .jposLean ∧
    decodeTableWord 8 0x10 = none := by decide

/-- A non-default map of R75: HALT at 0xFF. -/
theorem test_other_map : decode { Params.reference .rich with opcodeMap := { OpcodeMap.default with halt := 0xFF } } 0xFF =
    .instr .haltRich := by decide

/-! ### V-FD: fetch and decode -/

theorem test_fd1_pc_at_end : panics (step { State.reset with pc := 64 }) .programCounterOutOfRange
    (fun t => t.pc == 64) = true := by decide

theorem test_fd2_last_address : nextIs (step { State.reset with pc := 63 })
    (fun t => t.pc == 64 && t.run == .running) = true := by decide

theorem test_fd4_dup_byte_in_rich : panics (step (rich 0x0C [] 0 0)) .invalidInstruction (fun t => t.pc == 1) = true := by
  decide

theorem test_fd7_stor_byte_in_lean : panics (step (lean 0x08 [] 0)) .invalidInstruction (fun t => t.pc == 1) = true := by
  decide

theorem test_fd9_halted_holds : nextIs (step { State.reset with run := .halted })
    (fun t => t == { State.reset with run := .halted }) = true := by decide

/-! ### V-STK: stack transfer -/

theorem test_stk1_noop : nextIs (step State.reset) (fun t => t == { State.reset with pc := 1 }) = true := by decide

theorem test_stk1_noop_lean : nextIs (step (lean 0x00 [] 3)) (fun t => t == { lean 0x00 [] 3 with pc := 1 }) = true := by
  decide

theorem test_stk2_push_wraps : nextIs (step (rich 0x01 [] 15 0x2A))
    (fun t => t.ds.top == 0 && t.ds.slot 0 == 0x2A && t.acc == 0x2A) = true := by decide

theorem test_stk3_pop_wraps : nextIs (step (rich 0x02 [(0, 0x80)] 0 0))
    (fun t => t.acc == 0x80 && t.ds.top == 15 && t.ds.slot 0 == 0x80) = true := by decide

theorem test_stk4_rpush_wraps : nextIs (step { rich 0x03 [] 0 0x07 with rs := { State.reset.rs with top := 15 } })
    (fun t => t.rs.top == 0 && t.rs.slot 0 == 0x07 && t.ds == State.reset.ds) = true := by decide

theorem test_stk5_rpop_wraps : nextIs (step (rich 0x04 [] 0 0x55)) (fun t => t.acc == 0x00 && t.rs.top == 15) = true := by
  decide

theorem test_stk6_dup : nextIs (step (lean 0x0C [(2, 0x05)] 2))
    (fun t => t.ds.top == 3 && t.ds.slot 3 == 0x05 && t.ds.slot 2 == 0x05) = true := by decide

theorem test_stk7_dup_wraps : nextIs (step (lean 0x0C [(0, 0x77), (15, 0x09)] 15))
    (fun t => t.ds.top == 0 && t.ds.slot 0 == 0x09) = true := by decide

/-! ### V-ALU -/

theorem test_alu1_add : nextIs (step (rich 0x05 [(0, 0x7F), (1, 0x01)] 1 0))
    (fun t => t.ds.top == 0 && t.ds.slot 0 == 0x80 && t.ds.slot 1 == 0x01) = true := by decide

theorem test_alu3_add_wraps_slots : nextIs (step (rich 0x05 [(0, 0x05), (15, 0x03)] 0 0))
    (fun t => t.ds.top == 15 && t.ds.slot 15 == 0x08 && t.ds.slot 0 == 0x05) = true := by decide

theorem test_alu4_sub_order : nextIs (step (rich 0x06 [(0, 0x05), (1, 0x07)] 1 0))
    (fun t => t.ds.top == 0 && t.ds.slot 0 == 0xFE) = true := by decide

theorem test_alu5_sub_wraps : nextIs (step (lean 0x06 [(0, 0x80), (1, 0x01)] 1))
    (fun t => t.ds.slot 0 == 0x7F) = true := by decide

theorem test_alu8_one : nextIs (step (lean 0x0D [(0, 0x80)] 0)) (fun t => t.ds.slot 0 == 0x01 && t.ds.top == 0) = true := by
  decide

theorem test_alu12_zero : nextIs (step (lean 0x0E [(0, 0xFF)] 0)) (fun t => t.ds.slot 0 == 0xFE) = true := by decide

theorem test_st1_sub_one_slot : nextIs (exec .subRich (stateOf (sized .rich 1) [] [(0, 0x41)] 0))
    (fun t => t.ds.slot 0 == 0x00) = true := by decide

theorem test_st2_add_lean : nextIs (exec .addLean (stateOf (sized .lean 2) [] [(0, 0x10), (1, 0x20)] 1))
    (fun t => t.ds.top == 0 && t.ds.slot 0 == 0x30) = true := by decide

/-! ### V-LD, V-ST -/

theorem test_ld1_load : nextIs (exec .loadRich (stateOf (.reference .rich) [(63, 0x99)] [(0, 0x3F)] 0))
    (fun t => t.acc == 0x99 && t.ds.top == 15) = true := by decide

theorem test_ld2_load_faults : panics (step (rich 0x07 [(0, 0x40)] 0 0x11)) (.addressOutOfRange .load)
    (fun t => t.pc == 1 && t.ds.top == 15 && t.acc == 0x11) = true := by decide

theorem test_ld5_load_lean : nextIs (exec .loadLean (stateOf (.reference .lean) [(48, 0x05)] [(0, 0x30)] 0))
    (fun t => t.ds.slot 0 == 0x05 && t.ds.top == 0) = true := by decide

theorem test_ld6_load_lean_faults : panics (step (lean 0x07 [(0, 0x40)] 0)) (.addressOutOfRange .load)
    (fun t => t.ds.slot 0 == 0x40 && t.ds.top == 0) = true := by decide

theorem test_st6_stor_then_fetch : nextIs (step { stateOf (.reference .rich) [(10, 0x08)] [(0, 0x0B)] 0 with
    pc := 10, acc := 0x0B })
    (fun t => t.core == [(10, 0x08), (11, 0x0B)] && t.pc == 11 && t.nextInstr == some .haltRich) = true := by decide

theorem test_st2_stor_faults : panics (step (rich 0x08 [(0, 0x40)] 0 0x55)) (.addressOutOfRange .stor)
    (fun t => t.core == [(0, 0x08)] && t.ds.top == 15) = true := by decide

theorem test_st5_pop_lean : nextIs (step (lean 0x02 [(0, 0x3F), (1, 0x05)] 1))
    (fun t => Memory.read t.core 63 == 0x05 && t.ds.top == 15) = true := by decide

theorem test_st4_pop_lean_faults : panics (step (lean 0x02 [(0, 0x40), (1, 0x05)] 1)) (.addressOutOfRange .stor)
    (fun t => t.core == [(0, 0x02)] && t.ds.top == 15) = true := by decide

/-! ### V-JMP, V-JEQ, V-JPOS, V-HALT -/

theorem test_jmp2_last_address : nextIs (step (rich 0x09 [(0, 0x3F)] 0 0)) (fun t => t.pc == 63 && t.ds.top == 15) = true := by
  decide

theorem test_jmp4_faults : panics (step (rich 0x09 [(0, 0xFF)] 0 0)) (.addressOutOfRange .jump)
    (fun t => t.pc == 1 && t.ds.top == 15) = true := by decide

theorem test_jmp1_lean : nextIs (step (lean 0x09 [(0, 0x07)] 0)) (fun t => t.pc == 7 && t.ds.top == 15) = true := by decide

theorem test_jeq1_taken : nextIs (step (rich 0x0A [(0, 0x10)] 0 0x00)) (fun t => t.pc == 16 && t.ds.top == 15) = true := by
  decide

theorem test_jeq4_discards : nextIs (step (rich 0x0A [(0, 0x40)] 0 0x80))
    (fun t => t.pc == 1 && t.ds.top == 15 && t.run == .running) = true := by decide

theorem test_jpos3_zero_jumps : nextIs (step (lean 0x0F [(1, 0x00), (2, 0x3F)] 2))
    (fun t => t.pc == 63 && t.ds.top == 0) = true := by decide

theorem test_jpos5_negative_discards : nextIs (step (lean 0x0F [(1, 0x80), (2, 0x40)] 2))
    (fun t => t.pc == 1 && t.ds.top == 0 && t.run == .running) = true := by decide

theorem test_halt : nextIs (step { stateOf (.reference .rich) [(63, 0x0B)] [] 0 with pc := 63 })
    (fun t => t.run == .halted && t.pc == 64 && t.reason == none) = true := by decide

theorem test_halt_lean : nextIs (step (lean 0x0B [] 0)) (fun t => t.run == .halted && t.pc == 1) = true := by decide

/-! ### Host interface, assembler (P1, R78, R79, R201) -/

theorem test_assemble_p1 : assemble (.reference .rich) [.instr .load, .instr .push, .instr .jmp, .byte 0xFF, .byte 255,
    .byte (-1), .byte 0xFF, .label "stop", .instr .halt] =
    some [0x07, 0x01, 0x09, 0xFF, 0xFF, 0xFF, 0xFF, 0x0B] := by decide

theorem test_setb_0x02 : assemble (.reference .lean) (setb 0x02) =
    some [0x0E, 0x0E, 0x0E, 0x0E, 0x0E, 0x0E, 0x0D, 0x0E] := by decide

theorem test_launch_p1 : nextIs (launch (.reference .rich) [0x07, 0x01, 0x00])
    (fun t => t == { State.reset with core := [(0, 0x07), (1, 0x01)] }) = true := by decide

theorem test_ports : ports { State.reset with run := .panicked, reason := some (.addressOutOfRange .jump) } =
    { status := 0b10, faultCode := 5 } := by decide

theorem test_reset_input : nextIs (clockEdge true (rich 0x0B [(3, 1)] 3 9)) (fun t => t == State.reset) = true := by decide

theorem test_observe_lean_has_no_acc : (observe (lean 0x00 [] 0)).rich = none ∧
    (observe State.reset).rich.isSome = true := by decide

theorem test_place_lean_word : nextIs (step (State.reset.withFetchWord 8 0x0C)) (fun t => t.ds.top == 1 && t.pc == 1) = true := by
  decide

/-! ### Witnesses: every statement's hypotheses are met together, at the boundaries of its clauses -/

theorem witness_DecoderAnswersExactlyTheMap : (Params.reference .rich).Admitted ∧ (rich 0xFF [] 0 0).Legal ∧
    (rich 0xFF [] 0 0).params = .reference .rich ∧ (rich 0xFF [] 0 0).run = .running ∧
    (rich 0xFF [] 0 0).pc < (rich 0xFF [] 0 0).params.coreSize ∧ (rich 0xFF [] 0 0).coreAt 0 = 0xFF ∧
    decode (.reference .rich) 0xFF = .invalid := by decide

theorem witness_DecodeOfEncodeIsTheInstruction : (Params.reference .lean).Admitted ∧
    Instr.WellFormed .popLean (.reference .lean) := by decide

theorem witness_IllegalBytesAreCountedAndListed : (Params.reference .rich).Admitted ∧
    (Params.reference .lean).Admitted := by decide

theorem witness_PlacedTableWordRunsNext : State.reset.Legal ∧ State.reset.run = .running ∧
    ({ State.reset with pc := 63 } : State).Legal ∧ decodeTableWord 8 0x01 = some .pushRich ∧
    decodeTableWord 8 0x0C = some .dupLean := by
  and_intros <;> decide

theorem witness_StepRunsDecodedInstruction : (rich 0x0B [] 0 0).params.Admitted ∧ (rich 0x0B [] 0 0).run = .running ∧
    (rich 0x0B [] 0 0).pc < 64 ∧ decode (rich 0x0B [] 0 0).params ((rich 0x0B [] 0 0).coreAt 0) = .instr .haltRich := by
  decide

theorem witness_FetchChecksReadsAndIncrements : ({ State.reset with pc := 64 } : State).Legal ∧
    ({ State.reset with pc := 63 } : State).Legal ∧ State.reset.run = .running ∧
    nextIs (step { State.reset with pc := 63 }) (fun t => t.pc == 64) = true := by
  and_intros <;> decide

theorem witness_InvalidOpcodePanicsAfterIncrement : (rich 0x0C [] 0 0).params.Admitted ∧
    (rich 0x0C [] 0 0).run = .running ∧ (rich 0x0C [] 0 0).pc < 64 ∧
    decode (rich 0x0C [] 0 0).params ((rich 0x0C [] 0 0).coreAt 0) = .invalid := by decide

/-- A legal HALTED and a legal PANICKED state. -/
def halted : State := { State.reset with pc := 1, run := .halted }

/-- See `halted`. -/
def panicked : State := { State.reset with pc := 64, run := .panicked, reason := some .programCounterOutOfRange }

theorem witness_TerminalStatesHoldUntilReset : halted.params.Admitted ∧ halted.run ≠ .running ∧
    panicked.params.Admitted ∧ panicked.run ≠ .running := by decide

theorem witness_UnadmittedParametersRefused : ¬ (stateOf (sized .rich 257) [] [] 0).params.Admitted ∧
    ¬ (sized .lean 0).Admitted := by decide

theorem witness_EveryStepKeepsLegalState : (rich 0x01 [] 15 0x2A).Legal ∧ (lean 0x02 [(0, 0x3F)] 1).Legal ∧
    nextIs (step (rich 0x01 [] 15 0x2A)) (fun _ => true) = true ∧
    nextIs (step (lean 0x02 [(0, 0x3F)] 1)) (fun _ => true) = true := by
  and_intros <;> decide

theorem witness_LegalStateAlwaysSteps : (lean 0xFF [] 15).Legal ∧ halted.Legal ∧ panicked.Legal := by
  and_intros <;> decide

theorem witness_PcMovesOnlyByFetchAndJump : ({ State.reset with pc := 64 } : State).Legal ∧
    nextIs (step { State.reset with pc := 64 }) (fun t => t.pc == 64) = true ∧
    (rich 0x09 [(0, 0x3F)] 0 0).Legal ∧ nextIs (step (rich 0x09 [(0, 0x3F)] 0 0)) (fun t => t.pc == 63) = true ∧
    State.reset.Legal ∧ nextIs (step State.reset) (fun t => t.pc == 1) = true := by
  and_intros <;> decide

theorem witness_StepEndsRunExactlyOnHaltOrFault : (rich 0x0B [] 0 0).Legal ∧
    nextIs (step (rich 0x0B [] 0 0)) (fun t => t.run == .halted) = true ∧ (lean 0x01 [] 0).Legal ∧
    nextIs (step (lean 0x01 [] 0)) (fun t => t.run == .panicked) = true ∧ (rich 0x08 [(0, 0x40)] 0 0).Legal ∧
    nextIs (step (rich 0x08 [(0, 0x40)] 0 0)) (fun t => t.run == .panicked) = true ∧
    ({ State.reset with pc := 64 } : State).Legal := by
  and_intros <;> decide

theorem witness_FaultLeavesOnlyIncrementAndPops : (rich 0x07 [(0, 0x40)] 0 0).Legal ∧
    nextIs (step (rich 0x07 [(0, 0x40)] 0 0)) (fun t => t.run == .panicked) = true ∧
    (lean 0x0F [(15, 0x7F), (0, 0x40)] 0).Legal ∧
    nextIs (step (lean 0x0F [(15, 0x7F), (0, 0x40)] 0)) (fun t => t.run == .panicked) = true ∧
    (lean 0x07 [(0, 0xFF)] 0).Legal ∧
    nextIs (step (lean 0x07 [(0, 0xFF)] 0)) (fun t => t.run == .panicked) = true := by
  and_intros <;> decide

/-- A RICH instance with one byte of core, which holds a NOOP. -/
def tiny : State := stateOf { Params.reference .rich with coreSize := 1 } [] [] 0

theorem witness_RunWithoutJumpEnds : tiny.Legal ∧
    ∀ k t, k ≤ tiny.params.coreSize → runFor k tiny = .next t → t.takesJump = false := by
  refine ⟨by decide, fun k t hk h => ?_⟩
  have hk : k ≤ 1 := hk
  obtain rfl | rfl : k = 0 ∨ k = 1 := by omega
  · cases h; decide
  · have e : nextIs (runFor 1 tiny) (fun t => !t.takesJump) = true := by decide
    rw [h] at e
    simpa [nextIs] using e

theorem witness_HandlersRefineDatapathTable : (rich 0x0A [(0, 0x3F)] 0 0).Legal ∧
    Instr.WellFormed .jeqRich (rich 0x0A [(0, 0x3F)] 0 0).params ∧ (lean 0x02 [(0, 0x40)] 1).Legal ∧
    Instr.WellFormed .popLean (lean 0x02 [(0, 0x40)] 1).params ∧ (stateOf (sized .lean 1) [] [(0, 0x85)] 0).Legal := by
  and_intros <;> decide

theorem witness_ResetGivesConstructorValues : (rich 0x0B [] 3 9).params.variant = .rich := by decide

theorem witness_ResetStateIsLegal : (sized .lean 256).Admitted ∧ (sized .rich 1).Admitted := by decide

theorem witness_LaunchReplacesCoreByImage : (Params.reference .rich).Admitted ∧
    (List.replicate 64 (0x0B : Byte)).length ≤ (Params.reference .rich).coreSize ∧
    (Params.reference .rich).coreSize < (List.replicate 65 (0x0B : Byte)).length := by decide

theorem witness_ZeroCoreRunsNoopsThenFaults : ({ Params.reference .lean with coreSize := 256 } : Params).Admitted ∧
    64 ≤ (Params.reference .rich).coreSize := by decide

theorem witness_PcFitsLeastRegisterWidth : ({ State.reset with pc := 64 } : State).Legal ∧
    State.reset.params.pcWidth = 7 ∧ State.reset.params.coreSize < 2 ^ 7 := by decide

theorem witness_OutputsTellResultApart : halted.Legal ∧ panicked.Legal ∧ State.reset.Legal := by
  and_intros <;> decide

theorem witness_StoreSeenByNextFetch : (rich 0x08 [(0, 0x3F)] 0 0x55).Legal ∧
    (0x3F : Byte) = (rich 0x08 [(0, 0x3F)] 0 0x55).dsAt 0 ∧ (0x55 : Byte) = (rich 0x08 [(0, 0x3F)] 0 0x55).acc ∧
    (0x3F : Byte).toNat < 64 ∧ (lean 0x02 [(15, 0x3F), (0, 0x05)] 0).Legal ∧
    (0x3F : Byte) = (lean 0x02 [(15, 0x3F), (0, 0x05)] 0).dsAt (slotBefore 16 0) := by
  and_intros <;> decide

theorem witness_StackIndexWraps : 15 < 16 ∧ Stack.inc 16 15 = 0 ∧ 0 < 16 ∧ Stack.dec 16 0 = 15 ∧ 0 < 1 := by decide

theorem witness_PushAdvancesThenWrites : ({ Stack.zeroed 16 with top := 15 } : Stack).Legal 16 ∧
    (Stack.zeroed 1).Legal 1 := by
  and_intros <;> decide

theorem witness_PopReadsThenRetreats : (Stack.zeroed 16).Legal 16 ∧ (Stack.zeroed 1).Legal 1 := by
  and_intros <;> decide

theorem witness_StackReturnsNewestFirst : (Stack.zeroed 2).Legal 2 ∧ 2 ≤ ([1, 2, 3] : List Byte).length ∧
    (Stack.popMany 2 3 (Stack.pushAll 2 [1, 2, 3] (Stack.zeroed 2))).1 = [3, 2, 3] ∧
    ([7] : List Byte).length ≤ 2 := by decide

theorem witness_ReturnStackIsForRpushAndRpop : State.reset.Legal ∧ State.reset.params.variant = .rich ∧
    Instr.pushRich ≠ .rpushRich ∧ Instr.pushRich ≠ .rpopRich := by decide

theorem witness_AccumulatorReadersAndWriters : Instr.jeqRich ∉ [Instr.popRich, .rpopRich, .loadRich] ∧
    Instr.loadRich ∉ [Instr.pushRich, .rpushRich, .storRich, .jeqRich] := by decide

theorem witness_CoreReadersAndWriters : Instr.loadRich ≠ .storRich ∧ Instr.loadRich ≠ .popLean ∧
    Instr.popRich ≠ .storRich ∧ Instr.popRich ≠ .popLean ∧ Instr.popRich ≠ .loadRich ∧ Instr.popRich ≠ .loadLean ∧
    (rich 0x08 [(0, 0x3F)] 0 0x55).Legal ∧ (0x3F : Byte) = (rich 0x08 [(0, 0x3F)] 0 0x55).dsAt 0 ∧
    (0x55 : Byte) = (rich 0x08 [(0, 0x3F)] 0 0x55).acc ∧ (0x3F : Byte).toNat < 64 ∧
    (rich 0x08 [(0, 0x40)] 0 0x55).Legal ∧ (0x40 : Byte) = (rich 0x08 [(0, 0x40)] 0 0x55).dsAt 0 ∧
    64 ≤ (0x40 : Byte).toNat ∧ (lean 0x02 [(15, 0x40), (0, 0x05)] 0).Legal ∧
    (0x40 : Byte) = (lean 0x02 [(15, 0x40), (0, 0x05)] 0).dsAt (slotBefore 16 0) ∧
    (0x05 : Byte) = (lean 0x02 [(15, 0x40), (0, 0x05)] 0).dsAt 0 := by
  and_intros <;> decide

theorem witness_NoopOnlyIncrementsPc : State.reset.params.Admitted ∧ State.reset.run = .running ∧
    decode State.reset.params (State.reset.coreAt 0) = .instr .noopRich ∧
    decode (lean 0 [] 0).params ((lean 0 [] 0).coreAt 0) = .instr .noopLean := by decide

theorem witness_PushPushesAccumulator : (rich 0x01 [] 15 0x2A).Legal ∧ (rich 0x01 [] 0 0x2A).Legal := by
  and_intros <;> decide

theorem witness_PopMovesTopToAccumulator : (rich 0x02 [(0, 0x80)] 0 0).Legal ∧ (rich 0x02 [] 15 0).Legal := by
  and_intros <;> decide

theorem witness_RpushPushesOntoReturnStack :
    ({ State.reset with rs := { State.reset.rs with top := 15 } } : State).Legal ∧
    State.reset.params.variant = .rich := by decide

theorem witness_RpopPopsReturnStack : State.reset.Legal ∧ State.reset.params.variant = .rich := by decide

theorem witness_DupPushesCopyOfTop : (lean 0x0C [(15, 0x09)] 15).Legal ∧ (stateOf (sized .lean 1) [] [(0, 9)] 0).Legal ∧
    (stateOf (sized .lean 1) [] [(0, 9)] 0).params.stackSize = 1 := by
  and_intros <;> decide

theorem witness_AddReplacesTopTwo : (rich 0x05 [(0, 0x05), (15, 0x03)] 0 0).Legal ∧
    (lean 0x05 [(0, 0xFF), (1, 0x01)] 1).Legal := by
  and_intros <;> decide

theorem witness_SubReplacesTopTwo : (rich 0x06 [(0, 0x05)] 0 0).Legal ∧ (stateOf (sized .lean 1) [] [(0, 0x41)] 0).Legal ∧
    (stateOf (sized .lean 1) [] [(0, 0x41)] 0).params.stackSize = 1 := by
  and_intros <;> decide

theorem witness_OneShiftsInSetBit : (lean 0x0D [(15, 0x80)] 15).Legal := by decide

theorem witness_ZeroShiftsInClearBit : (lean 0x0E [(15, 0x80)] 15).Legal := by decide

theorem witness_ShiftSequenceBuildsConstant : (lean 0x00 [(0, 0xFF)] 0).Legal ∧
    8 ≤ [false, false, false, false, false, false, true, false].length := by decide

theorem witness_SetbLeavesByteOnTop : (lean 0x00 [(0, 0xFF)] 0).Legal ∧ (lean 0x00 [(0, 0xFF)] 0).params.variant = .lean := by
  decide

theorem witness_LoadRichReadsOrFaults : (rich 0x07 [(0, 0x3F)] 0 0).Legal ∧
    ((rich 0x07 [(0, 0x3F)] 0 0).dsAt 0).toNat < 64 ∧ (rich 0x07 [(0, 0x40)] 0 0).Legal ∧
    64 ≤ ((rich 0x07 [(0, 0x40)] 0 0).dsAt 0).toNat := by
  and_intros <;> decide

theorem witness_StorWritesOrFaults : (rich 0x08 [(0, 0x3F)] 0 1).Legal ∧ ((rich 0x08 [(0, 0x3F)] 0 1).dsAt 0).toNat < 64 ∧
    (rich 0x08 [(0, 0x40)] 0 1).Legal ∧ 64 ≤ ((rich 0x08 [(0, 0x40)] 0 1).dsAt 0).toNat := by
  and_intros <;> decide

theorem witness_LoadLeanReplacesTopOrFaults : (lean 0x07 [(0, 0x3F)] 0).Legal ∧
    ((lean 0x07 [(0, 0x3F)] 0).dsAt 0).toNat < 64 ∧ (lean 0x07 [(0, 0x40)] 0).Legal ∧
    64 ≤ ((lean 0x07 [(0, 0x40)] 0).dsAt 0).toNat := by
  and_intros <;> decide

theorem witness_PopLeanStoresOrFaults : (lean 0x02 [(15, 0x3F)] 0).Legal ∧
    ((lean 0x02 [(15, 0x3F)] 0).dsAt (slotBefore 16 0)).toNat < 64 ∧ (lean 0x02 [(15, 0x40)] 0).Legal ∧
    64 ≤ ((lean 0x02 [(15, 0x40)] 0).dsAt (slotBefore 16 0)).toNat := by
  and_intros <;> decide

theorem witness_JmpJumpsOrFaults : (rich 0x09 [(0, 0x3F)] 0 0).Legal ∧ ((rich 0x09 [(0, 0x3F)] 0 0).dsAt 0).toNat < 64 ∧
    (lean 0x09 [(0, 0x40)] 0).Legal ∧ 64 ≤ ((lean 0x09 [(0, 0x40)] 0).dsAt 0).toNat := by
  and_intros <;> decide

theorem witness_JeqJumpsExactlyOnZero : (rich 0x0A [(0, 0x40)] 0 0x80).Legal ∧ (rich 0x0A [(0, 0x40)] 0 0x80).acc ≠ 0x00 ∧
    (rich 0x0A [(0, 0x3F)] 0 0).Legal ∧ ((rich 0x0A [(0, 0x3F)] 0 0).dsAt 0).toNat < 64 ∧
    (rich 0x0A [(0, 0x40)] 0 0).Legal ∧ 64 ≤ ((rich 0x0A [(0, 0x40)] 0 0).dsAt 0).toNat ∧
    (rich 0x0A [(0, 0x40)] 0 0).acc = 0x00 := by
  and_intros <;> decide

theorem witness_JposJumpsExactlyOnNonNegative : (lean 0x0F [(15, 0x80), (0, 0x40)] 0).Legal ∧
    128 ≤ ((lean 0x0F [(15, 0x80), (0, 0x40)] 0).dsAt (slotBefore 16 0)).toNat ∧
    (lean 0x0F [(15, 0x7F), (0, 0x3F)] 0).Legal ∧
    ((lean 0x0F [(15, 0x7F), (0, 0x3F)] 0).dsAt (slotBefore 16 0)).toNat < 128 ∧
    ((lean 0x0F [(15, 0x7F), (0, 0x3F)] 0).dsAt 0).toNat < 64 ∧ (lean 0x0F [(15, 0x7F), (0, 0x40)] 0).Legal ∧
    64 ≤ ((lean 0x0F [(15, 0x7F), (0, 0x40)] 0).dsAt 0).toNat := by
  and_intros <;> decide

theorem witness_HaltHaltsAndKeepsTheRest : Instr.haltRich = .haltRich ∧ State.reset.Legal := by decide

end Sys2Proof.Tests
end

section
/-! The two readings of a byte and the ALU's wrap-around (00_scope.md rules R8, R10). A byte is its reading's residue
mod 256, and both readings have the same residue: so the reading does not show in the bits of a sum or a difference. -/

namespace Sys2Proof.Machine

open Sys2Proof

theorem toNat_byte (n : Int) : ((byte n).toNat : Int) = n % 256 := by
  unfold byte
  rw [BitVec.toNat_ofInt]
  exact Int.toNat_of_nonneg (Int.emod_nonneg n (by decide))

theorem byte_eq_byte_iff (m n : Int) : byte m = byte n ↔ m % 256 = n % 256 := by
  rw [← BitVec.toNat_inj, ← Int.natCast_inj, toNat_byte, toNat_byte]

/-- R8: the signed and the unsigned reading of a byte are congruent mod 256. -/
theorem uns_modEq_sgn (b : Byte) : (uns b : Int) ≡ sgn b [ZMOD 256] := by
  unfold uns sgn
  rw [BitVec.toInt_eq_toNat_bmod]
  exact Int.bmod_emod.symm

theorem toNat_aluAdd (a b : Byte) : (aluAdd a b).toNat = (a.toNat + b.toNat) % 256 := by
  have h : ((aluAdd a b).toNat : Int) = (a.toNat + b.toNat) % 256 := toNat_byte _
  exact_mod_cast h

theorem toNat_aluSub (a b : Byte) : ((aluSub a b).toNat : Int) = (a.toNat - b.toNat + 256) % 256 :=
  toNat_byte _

theorem aluAdd_eq_byte_sgn (a b : Byte) : aluAdd a b = byte (sgn a + sgn b) :=
  (byte_eq_byte_iff _ _).2 ((uns_modEq_sgn a).add (uns_modEq_sgn b))

theorem aluSub_eq_byte_sgn (a b : Byte) : aluSub a b = byte (sgn a - sgn b) := by
  have h : (uns a - uns b : Int) ≡ sgn a - sgn b [ZMOD 256] := (uns_modEq_sgn a).sub (uns_modEq_sgn b)
  refine (byte_eq_byte_iff _ _).2 ?_
  rw [Int.add_emod_right]
  exact h

/-- Settles O38: the unsigned clauses say what residue `byte` keeps, the signed ones that both readings share it. -/
theorem aluWrapsUnderBothReadings : Obligations.AluWrapsUnderBothReadings := fun a b =>
  ⟨toNat_aluAdd a b, toNat_aluSub a b, aluAdd_eq_byte_sgn a b, aluSub_eq_byte_sgn a b⟩

end Sys2Proof.Machine
end

section
/-! The state's stacks and its reset (10_state.md): where a stack index goes and what each slot then holds (R30 to R32),
the values of reset (R37), and that the return stack is private to RPUSH and RPOP (R25). -/

namespace Sys2Proof.Machine

open Sys2Proof

/-! ### The stack controller -/

/-- Settles O25: the modular arithmetic of `inc` and `dec` is R30's case split. -/
theorem stackIndexWraps : Obligations.StackIndexWraps := fun _ _ h =>
  ⟨Stack.inc_eq h, Stack.dec_eq h, rfl, rfl⟩

/-- Settles O26: the slot a push writes is the one the advanced index names, and every slot follows from that. -/
theorem pushAdvancesThenWrites : Obligations.PushAdvancesThenWrites := by
  intro n v st h
  have slot_eq (i : Nat) : (st.push n v).slot i = if i = slotAfter n st.top then v else st.slot i := by
    rw [Stack.push_slot v h, Stack.inc_eq h.2]
  refine ⟨Stack.inc_eq h.2, ?_, fun i hi => ?_, Stack.legal_push v h⟩
  · rw [slot_eq, if_pos rfl]
  · rw [slot_eq, if_neg hi]

/-- Settles O27: only the index moves, so each slot keeps its byte. -/
theorem popReadsThenRetreats : Obligations.PopReadsThenRetreats := fun n st h =>
  ⟨Stack.pop_fst n st, Stack.dec_eq h.2, fun i => Stack.pop_slot n i st, Stack.legal_pop h⟩

/-! ### Reset -/

theorem Stack.zeroed_length (n : Nat) : (Stack.zeroed n).slots.length = n := List.length_replicate

theorem Stack.zeroed_top (n : Nat) : (Stack.zeroed n).top = 0 := rfl

/-- In RICH the return stack is reset as the data stack is (R37). -/
theorem State.resetOf_rs_rich {p : Params} (h : p.variant = .rich) :
    (State.resetOf p).rs = Stack.zeroed p.stackSize := by
  rw [State.resetOf_rs, h]; rfl

/-- Settles O18: both stacks are zeroed stacks, and core is the empty list, which reads 0x00 everywhere. -/
theorem resetGivesConstructorValues : Obligations.ResetGivesConstructorValues := by
  intro s
  refine ⟨rfl, Memory.read_nil, Stack.zeroed_length _, fun i _ => Stack.zeroed_slot _ i, Stack.zeroed_top _, ?_, rfl, rfl⟩
  intro h
  have hrs : s.applyReset.rs = Stack.zeroed s.params.stackSize := State.resetOf_rs_rich h
  unfold State.rsAt State.rtop
  rw [hrs]
  exact ⟨Stack.zeroed_length _, fun i _ => Stack.zeroed_slot _ i, Stack.zeroed_top _, rfl⟩

/-! ### The return stack

Noninterference in one equation: running from another return stack commutes with `setRs`. Taken at the state's own
return stack, the equation also says that nothing is written. -/

/-- A guarded access ignores the return stack when what it guards does. -/
theorem State.checked_setRs {a : Byte} {op : AddressUse} {rest : State → State} {s : State} {r : Stack}
    (h : rest (s.setRs r) = (rest s).setRs r) :
    (s.setRs r).checked a op rest = (s.checked a op rest).setRs r := by
  rw [State.checked_eq, State.checked_eq, h, apply_ite (State.setRs r)]
  rfl

theorem State.jumpTo_setRs {a : Byte} {op : AddressUse} {s : State} {r : Stack} :
    (s.setRs r).jumpTo a op = (s.jumpTo a op).setRs r :=
  State.checked_setRs rfl

/-- R25: a handler other than those of RPUSH and RPOP does from any return stack what it does from the state's own. -/
theorem exec_setRs {i : Instr} {s t : State} (r : Stack) (hpush : i ≠ .rpushRich) (hpop : i ≠ .rpopRich)
    (h : exec i s = .next t) : exec i (s.setRs r) = .next (t.setRs r) := by
  cases i with
  | rpushRich => exact absurd rfl hpush
  | rpopRich => exact absurd rfl hpop
  | noopRich | pushRich | popRich | addRich | subRich | haltRich
  | noopLean | addLean | subLean | haltLean | dupLean | oneLean | zeroLean => cases h; rfl
  | loadRich | storRich | loadLean | popLean => cases h; rw [← State.checked_setRs] <;> rfl
  | jmpRich | jmpLean => cases h; rw [← State.jumpTo_setRs]; rfl
  | jeqRich | jposLean => cases h; rw [apply_ite (State.setRs r), ← State.jumpTo_setRs]; rfl

/-- The same handlers leave the return stack as it was. -/
theorem exec_rs {i : Instr} {s t : State} (hpush : i ≠ .rpushRich) (hpop : i ≠ .rpopRich)
    (h : exec i s = .next t) : t.rs = s.rs := by
  have hself : exec i s = .next (t.setRs s.rs) := exec_setRs s.rs hpush hpop h
  have ht : t = t.setRs s.rs := Host.Outcome.next.inj (h.symm.trans hself)
  rw [ht, State.setRs_rs]

/-- Settles O29: the first clause is in `State.Legal`, the second is `exec_setRs` with its consequence `exec_rs`. -/
theorem returnStackIsForRpushAndRpop : Obligations.ReturnStackIsForRpushAndRpop := by
  refine ⟨fun s hs hv => ?_, fun i s r hpush hpop => ?_⟩
  · obtain ⟨-, -, -, -, ⟨hrich, -⟩, -⟩ := hs
    exact hrich hv
  · obtain ⟨t, ht⟩ := exec_next i s
    exact ⟨t, ht, exec_rs hpush hpop ht, exec_setRs r hpush hpop ht⟩

end Sys2Proof.Machine
end

section
/-! The decoder (30_encoding.md rules R73 to R76): within a variant an admitted map is injective (R75), so the first
instruction the decoder finds for a byte is the only one the map gives that byte. -/

namespace Sys2Proof

/-- The list the decoder searches holds every instruction of the variant and no other. -/
theorem Variant.mem_instrs {v : Variant} {i : Instr} : i ∈ v.instrs ↔ i.variant = v := by
  cases v <;> cases i <;> decide

theorem OpcodeMap.WellFormed.nodup_bytes {map : OpcodeMap} (h : map.WellFormed) (v : Variant) :
    (map.bytes v).Nodup := by
  obtain ⟨-, hrich, hlean⟩ := h
  cases v with
  | rich => exact hrich
  | lean => exact hlean

/-- R75: instructions of the instance's variant with the same byte are the same instruction. -/
theorem Params.Admitted.opcode_inj {p : Params} (hp : p.Admitted) {i j : Instr} (hi : i.variant = p.variant)
    (hj : j.variant = p.variant) (h : p.opcode i = p.opcode j) : i = j := by
  obtain ⟨-, -, hmap⟩ := hp
  exact List.inj_on_of_nodup_map (hmap.nodup_bytes p.variant) (Variant.mem_instrs.2 hi) (Variant.mem_instrs.2 hj) h

/-- Under any map, admitted or not, a byte is INVALID exactly when no instruction of the variant has it. -/
theorem decode_eq_invalid_iff {p : Params} {b : Byte} :
    decode p b = .invalid ↔ ∀ i : Instr, i.variant = p.variant → p.opcode i ≠ b := by
  have hnone : decode p b = .invalid ↔ (p.variant.instrs.find? fun i => p.opcode i == b) = none := by
    unfold decode
    split <;> simp [*]
  rw [hnone, List.find?_eq_none]
  simp [Variant.mem_instrs]

/-- The decoder reads the byte of an instruction as that instruction. -/
theorem decode_opcode {p : Params} (hp : p.Admitted) {i : Instr} (hi : i.variant = p.variant) :
    decode p (p.opcode i) = .instr i := by
  cases hd : decode p (p.opcode i) with
  | instr j =>
    obtain ⟨hmem, hbyte⟩ := Machine.decode_instr hd
    rw [hp.opcode_inj (Variant.mem_instrs.1 hmem) hi hbyte]
  | invalid => exact absurd rfl (decode_eq_invalid_iff.1 hd i hi)

theorem decode_eq_instr_iff {p : Params} (hp : p.Admitted) {b : Byte} {i : Instr} :
    decode p b = .instr i ↔ i.variant = p.variant ∧ p.opcode i = b := by
  constructor
  · intro h
    obtain ⟨hmem, hbyte⟩ := Machine.decode_instr h
    exact ⟨Variant.mem_instrs.1 hmem, hbyte⟩
  · rintro ⟨hi, rfl⟩
    exact decode_opcode hp hi

end Sys2Proof

namespace Sys2Proof.Machine

open Sys2Proof

/-- R94: the step from a fetched INVALID byte. -/
theorem step_invalid {s : State} (hp : s.params.Admitted) (hrun : s.run = .running) (hpc : s.pc < s.params.coreSize)
    (hd : decode s.params (s.coreAt s.pc) = .invalid) :
    step s = .next ((s.setPc (s.pc + 1)).panic .invalidInstruction) := by
  unfold step
  rw [if_pos hp, hrun, fetch_inCore hpc]
  simp only [State.setPc_params, hd]

/-- Settles O1: the decoder's two answers are `decode_eq_instr_iff` and `decode_eq_invalid_iff`, the fault is
`step_invalid`. -/
theorem decoderAnswersExactlyTheMap : Obligations.DecoderAnswersExactlyTheMap := by
  intro p hp b
  refine ⟨fun i => decode_eq_instr_iff hp, decode_eq_invalid_iff, ?_⟩
  rintro s - rfl hrun hpc rfl hd
  exact ⟨_, step_invalid hp hrun hpc hd, rfl, rfl, rfl⟩

end Sys2Proof.Machine
end

section
/-! The fetch and `pc` (40_fetch_decode.md rule R92): a handler moves `pc` only by a taken jump, whose target lies below
CORE_SIZE (R22, R181), so the increment of the fetch alone brings `pc` to CORE_SIZE. -/

namespace Sys2Proof.Machine

open Sys2Proof

/-- R92: the step from the end of core. -/
theorem step_atEnd {s : State} (hp : s.params.Admitted) (hrun : s.run = .running) (hpc : s.params.coreSize ≤ s.pc) :
    step s = .next (s.panic .programCounterOutOfRange) := by
  unfold step
  rw [if_pos hp, hrun, fetch_atEnd hpc]

/-- A guarded access keeps `pc` when what it guards does. -/
theorem State.checked_pc {a : Byte} {op : AddressUse} {rest : State → State} {s : State}
    (h : (rest s).pc = s.pc) : (s.checked a op rest).pc = s.pc := by
  rcases State.checked_cases a op rest s with ⟨-, e⟩ | ⟨-, e⟩
  · rw [e, h]
  · rw [e, State.panic_pc]

/-- A jump leaves `pc` at its target, below CORE_SIZE, or faults and keeps it. -/
theorem State.jumpTo_pc (a : Byte) (op : AddressUse) (s : State) :
    (s.jumpTo a op).pc = s.pc ∨
    ((s.jumpTo a op).pc < s.params.coreSize ∧ (s.jumpTo a op).pc = a.toNat) := by
  rcases State.jumpTo_cases a op s with ⟨ha, e⟩ | ⟨-, e⟩
  · rw [e, State.setPc_pc]
    exact .inr ⟨ha, rfl⟩
  · rw [e, State.panic_pc]
    exact .inl rfl

/-- R22, R181: a handler keeps the `pc` the fetch left, or it is that of a jump and moves `pc` to the byte on top of the
data stack, below CORE_SIZE. -/
theorem exec_pc_cases {i : Instr} {s t : State} (h : exec i s = .next t) :
    t.pc = s.pc ∨
    (i ∈ [Instr.jmpRich, .jmpLean, .jeqRich, .jposLean] ∧ t.pc < s.params.coreSize ∧
      t.pc = (s.dsAt s.dtop).toNat) := by
  cases i with
  | noopRich | pushRich | popRich | rpushRich | rpopRich | addRich | subRich | haltRich
  | noopLean | addLean | subLean | haltLean | dupLean | oneLean | zeroLean => cases h; exact .inl rfl
  | loadRich | storRich | loadLean | popLean => cases h; exact .inl (State.checked_pc rfl)
  | jmpRich | jmpLean =>
    cases h
    exact (State.jumpTo_pc _ _ _).imp_right (And.intro (by decide))
  | jeqRich | jposLean =>
    replace h := Host.Outcome.next.inj h
    split at h <;> subst h
    · exact (State.jumpTo_pc _ _ _).imp_right (And.intro (by decide))
    · exact .inl rfl

/-- Settles O7: the fault is `step_atEnd`, the read is `fetch_inCore`; of the ways a step ends (`step_cases`), those that
leave `pc` elsewhere than at the increment keep it or jump below CORE_SIZE (`exec_pc_cases`). -/
theorem fetchChecksReadsAndIncrements : Obligations.FetchChecksReadsAndIncrements := by
  rintro s ⟨hp, hle, -⟩ hrun
  refine ⟨fun hend => ⟨Nat.le_antisymm hle hend, step_atEnd hp hrun hend⟩, fetch_inCore, fun t hstep hne ht => ?_⟩
  obtain ⟨-, ⟨hstop, -⟩ | ⟨-, -, rfl⟩ | ⟨-, -, -, rfl⟩ | ⟨-, -, i, -, hexec⟩⟩ := step_cases hstep
  · exact absurd hrun hstop
  · exact absurd ht hne
  · rfl
  · rcases exec_pc_cases hexec with hkeep | ⟨-, hlt, -⟩
    · exact hkeep
    · exact absurd ht (Nat.ne_of_lt hlt)

end Sys2Proof.Machine
end

section
/-! The stack transfers (41_stack_transfer.md rules R121 to R126). Each is one push or one pop of one stack: its stack
clauses are the controller's laws (R31, R32), and its frame is that every other state element is the one it was. -/

namespace Sys2Proof.Machine

open Sys2Proof

/-! ### Frames, from the state element that is unchanged -/

theorem SameCore.of_eq {s t : State} (h : t.core = s.core) : SameCore s t := fun a =>
  congrArg (Memory.read · a) h

theorem SameSlots.of_slots_eq {s t : State} (h : t.ds.slots = s.ds.slots) : SameSlots s t := fun i =>
  congrArg (·.getD i 0x00) h

theorem SameReturn.of_eq {s t : State} (h : t.rs = s.rs) : SameReturn s t :=
  ⟨congrArg Stack.top h, fun i => congrArg (Stack.slot · i) h⟩

/-! ### A push, seen from the new top -/

theorem Stack.push_slot_top {n : Nat} {st : Stack} (v : Byte) (h : st.Legal n) :
    (st.push n v).slot (st.push n v).top = v :=
  (Stack.push_slot v h _).trans (if_pos rfl)

theorem Stack.push_slot_of_ne_top {n : Nat} {st : Stack} (v : Byte) (h : st.Legal n) {i : Nat}
    (hi : i ≠ (st.push n v).top) : (st.push n v).slot i = st.slot i :=
  (Stack.push_slot v h i).trans (if_neg hi)

/-- A one-slot stack holds its top and nothing else, so a copy of the top lands on the top. -/
theorem Stack.push_top_of_oneSlot {st : Stack} (h : st.Legal 1) : st.push 1 (st.slot st.top) = st := by
  obtain ⟨slots, top⟩ := st
  obtain ⟨hlen, htop⟩ := h
  obtain ⟨b, rfl⟩ : ∃ b, slots = [b] := List.length_eq_one_iff.1 hlen
  obtain rfl : top = 0 := Nat.lt_one_iff.1 htop
  simp [Stack.push, Stack.setTop, Stack.slot, Stack.inc]

theorem State.pushD_top_of_oneSlot {s : State} (h : s.ds.Legal s.params.stackSize) (h1 : s.params.stackSize = 1) :
    s.pushD (s.ds.slot s.ds.top) = s := by
  unfold State.pushD
  rw [h1] at h ⊢
  rw [Stack.push_top_of_oneSlot h]
  rfl

/-! ### The instructions -/

/-- Settles O33: one push of `acc` on a legal data stack. -/
theorem pushPushesAccumulator : Obligations.PushPushesAccumulator := by
  rintro s ⟨-, -, -, hds, -, -⟩
  refine ⟨rfl, s.pushD s.acc, exec_pushRich s, ?dtop, ?newTop, ?otherSlots, rfl, rfl, .of_eq rfl, .of_eq rfl,
    rfl, rfl, rfl⟩
  case dtop => exact Stack.inc_eq hds.2
  case newTop => exact Stack.push_slot_top s.acc hds
  case otherSlots => exact fun i hi => Stack.push_slot_of_ne_top s.acc hds hi

/-- Settles O34: one pop of a legal data stack, which leaves the slots alone; both forms of POP share one byte. -/
theorem popMovesTopToAccumulator : Obligations.PopMovesTopToAccumulator := by
  rintro s ⟨-, -, -, hds, -, -⟩
  refine ⟨rfl, rfl, _, exec_popRich s, rfl, ?dtop, ?slots, rfl, .of_eq rfl, .of_eq rfl, rfl, rfl, rfl⟩
  case dtop => exact Stack.dec_eq hds.2
  case slots => exact .of_slots_eq (Stack.pop_slots ..)

/-- Settles O35: the return stack is legal in RICH, and RPUSH is the push of PUSH on it. -/
theorem rpushPushesOntoReturnStack : Obligations.RpushPushesOntoReturnStack := by
  rintro s ⟨-, -, -, -, ⟨hrich, -⟩, -⟩ hv
  have hrs : s.rs.Legal s.params.stackSize := hrich hv
  refine ⟨rfl, s.pushR s.acc, exec_rpushRich s, ?rtop, ?newTop, ?otherSlots, rfl, .of_slots_eq rfl, rfl, rfl,
    .of_eq rfl, rfl, rfl, rfl⟩
  case rtop => exact Stack.inc_eq hrs.2
  case newTop => exact Stack.push_slot_top s.acc hrs
  case otherSlots => exact fun i hi => Stack.push_slot_of_ne_top s.acc hrs hi

/-- Settles O36: the return stack is legal in RICH, and RPOP is the pop of POP on it. -/
theorem rpopPopsReturnStack : Obligations.RpopPopsReturnStack := by
  rintro s ⟨-, -, -, -, ⟨hrich, -⟩, -⟩ hv
  have hrs : s.rs.Legal s.params.stackSize := hrich hv
  refine ⟨rfl, _, exec_rpopRich s, rfl, ?rtop, ?slots, rfl, .of_slots_eq rfl, rfl, .of_eq rfl, rfl, rfl, rfl⟩
  case rtop => exact Stack.dec_eq hrs.2
  case slots => exact fun i => Stack.pop_slot _ i s.rs

/-- Settles O37: one push of the old top; with one slot the push writes the byte that already stands there. -/
theorem dupPushesCopyOfTop : Obligations.DupPushesCopyOfTop := by
  rintro s ⟨-, -, -, hds, -, -⟩
  refine ⟨rfl, s.pushD (s.dsAt s.dtop), exec_dupLean s, ?dtop, ?newTop, ?otherSlots, ?oneSlot, rfl, rfl, .of_eq rfl,
    .of_eq rfl, rfl, rfl, rfl⟩
  case dtop => exact Stack.inc_eq hds.2
  case newTop => exact Stack.push_slot_top _ hds
  case otherSlots => exact fun i hi => Stack.push_slot_of_ne_top _ hds hi
  case oneSlot => exact State.pushD_top_of_oneSlot hds

end Sys2Proof.Machine
end

section
/-! The shift-inserts of LEAN (42_alu.md rules R143 to R145). ONE and ZERO write the shifted byte over the top, so a
sequence of them is one write of the byte that shifting in all the bits gives, and eight bits leave nothing of the old
top. -/

namespace Sys2Proof.Machine

open Sys2Proof

/-! ### Shifting bits into a byte -/

theorem toNat_shiftInsert (bit : Bool) (x : Byte) :
    (shiftInsert bit x).toNat = (2 * x.toNat + bit.toNat) % 256 := by
  have h : ((shiftInsert bit x).toNat : Int) = (2 * x.toNat + bit.toNat) % 256 := toNat_byte _
  exact_mod_cast h

/-- R143, R144: the two formulas of the rules' pseudocode agree. -/
theorem shiftInsert_eq_append (bit : Bool) (x : Byte) :
    shiftInsert bit x = x.extractLsb' 0 7 ++ BitVec.ofBool bit := by
  have h : (x.extractLsb' 0 7 ++ BitVec.ofBool bit).toNat = x.toNat % 2 ^ 7 * 2 + bit.toNat := by
    rw [← BitVec.concat, BitVec.toNat_concat, BitVec.extractLsb'_toNat, Nat.shiftRight_zero]
  have hbit : bit.toNat < 2 := bit.toNat_lt
  apply BitVec.eq_of_toNat_eq
  rw [toNat_shiftInsert, h]
  omega

/-- The byte left of `x` when the bits are shifted in, the first one first. -/
def shiftInsertAll (x : Byte) (bits : List Bool) : Byte := bits.foldl (fun y bit => shiftInsert bit y) x

theorem shiftInsertAll_nil (x : Byte) : shiftInsertAll x [] = x := rfl

theorem shiftInsertAll_cons (x : Byte) (bit : Bool) (bits : List Bool) :
    shiftInsertAll x (bit :: bits) = shiftInsertAll (shiftInsert bit x) bits := rfl

/-- The value of more digits after those of the number `c`. -/
theorem foldl_digits_eq (c : Nat) (bits : List Bool) :
    bits.foldl (fun c bit => 2 * c + bit.toNat) c = c * 2 ^ bits.length + bitsValue bits := by
  induction bits generalizing c with
  | nil => simp [bitsValue]
  | cons bit bits ih =>
    unfold bitsValue
    rw [List.foldl_cons, List.foldl_cons, ih, ih (2 * 0 + bit.toNat), List.length_cons, Nat.pow_succ]
    ring

theorem bitsValue_cons (bit : Bool) (bits : List Bool) :
    bitsValue (bit :: bits) = bit.toNat * 2 ^ bits.length + bitsValue bits := by
  rw [← foldl_digits_eq]
  simp [bitsValue]

/-- R145: shifting in `k` bits of value `C` leaves `byte(x * 2^k + C)`. -/
theorem toNat_shiftInsertAll (x : Byte) (bits : List Bool) :
    (shiftInsertAll x bits).toNat = (x.toNat * 2 ^ bits.length + bitsValue bits) % 256 := by
  induction bits generalizing x with
  | nil => simp [shiftInsertAll_nil, bitsValue, Nat.mod_eq_of_lt x.isLt]
  | cons bit bits ih =>
    have hC : x.toNat * 2 ^ (bits.length + 1) + (bit.toNat * 2 ^ bits.length + bitsValue bits) =
        (2 * x.toNat + bit.toNat) * 2 ^ bits.length + bitsValue bits := by ring
    rw [shiftInsertAll_cons, ih, toNat_shiftInsert, bitsValue_cons, List.length_cons, hC]
    exact ((Nat.mod_modEq _ 256).mul_right _).add_right _

/-- R145: from eight bits on, the old byte is gone. -/
theorem shiftInsertAll_of_eight_le (x : Byte) {bits : List Bool} (h : 8 ≤ bits.length) :
    shiftInsertAll x bits = BitVec.ofNat 8 (bitsValue bits) := by
  obtain ⟨k, hk⟩ := Nat.exists_eq_add_of_le h
  have hpow : x.toNat * 2 ^ bits.length = 2 ^ 8 * (x.toNat * 2 ^ k) := by rw [hk, Nat.pow_add]; ring
  apply BitVec.eq_of_toNat_eq
  rw [toNat_shiftInsertAll, hpow, BitVec.toNat_ofNat]
  exact Nat.mul_add_mod _ _ _

/-! ### Writes to the top of the data stack -/

theorem State.setTopD_dsAt_top {s : State} (v : Byte) (h : s.ds.Legal s.params.stackSize) :
    (s.setTopD v).dsAt s.dtop = v :=
  (Stack.setTop_slot v h _).trans (if_pos rfl)

theorem State.setTopD_sameSlotsBut {s : State} (v : Byte) (h : s.ds.Legal s.params.stackSize) :
    SameSlotsBut s.dtop s (s.setTopD v) := fun i hi =>
  (Stack.setTop_slot v h i).trans (if_neg hi)

/-- The later of two writes to the top counts. -/
theorem State.setTopD_setTopD (v w : Byte) (s : State) : (s.setTopD v).setTopD w = s.setTopD w := by
  simp [State.setTopD, State.setDs, Stack.setTop]

theorem State.setTopD_dtop (v : Byte) (s : State) : (s.setTopD v).dtop = s.dtop := rfl

/-- Writing the byte that stands on top changes nothing. -/
theorem State.setTopD_topByte {s : State} (h : s.ds.Legal s.params.stackSize) : s.setTopD (s.dsAt s.dtop) = s := by
  obtain ⟨hlen, htop⟩ := h
  have hslots : s.ds.slots.set s.ds.top (s.ds.slot s.ds.top) = s.ds.slots := by
    rw [Stack.slot, List.getD_eq_getElem _ _ (hlen ▸ htop), List.set_getElem_self]
  unfold State.setTopD Stack.setTop
  rw [hslots]
  rfl

/-! ### The instructions -/

/-- A sequence of ONE and ZERO is one write to the top. -/
theorem execAll_shiftInstrs {s : State} (h : s.ds.Legal s.params.stackSize) (bits : List Bool) :
    execAll (shiftInstrs bits) s = .next (s.setTopD (shiftInsertAll (s.dsAt s.dtop) bits)) := by
  induction bits generalizing s with
  | nil => rw [shiftInsertAll_nil, State.setTopD_topByte h]; rfl
  | cons bit bits ih =>
    have hcons : execAll (shiftInstrs (bit :: bits)) s =
        execAll (shiftInstrs bits) (s.setTopD (shiftInsert bit (s.dsAt s.dtop))) := by
      cases bit <;> rfl
    have htop : (s.setTopD (shiftInsert bit (s.dsAt s.dtop))).dsAt s.dtop = shiftInsert bit (s.dsAt s.dtop) :=
      State.setTopD_dsAt_top _ h
    rw [hcons, ih (Stack.legal_setTop _ h), State.setTopD_setTopD, shiftInsertAll_cons, State.setTopD_dtop, htop]

/-- Settles O41: one write of `shiftInsert true` to the top of a legal data stack; eight shift in the number 255. -/
theorem oneShiftsInSetBit : Obligations.OneShiftsInSetBit := by
  rintro s ⟨-, -, -, hds, -, -⟩
  refine ⟨rfl, _, exec_oneLean s, rfl, ?bits, ?value, State.setTopD_sameSlotsBut _ hds,
    ⟨_, execAll_shiftInstrs hds (List.replicate 8 true), ?eight⟩, rfl, rfl, .of_eq rfl, .of_eq rfl, rfl, rfl, rfl⟩
  case bits => exact (State.setTopD_dsAt_top _ hds).trans (shiftInsert_eq_append true _)
  case value => exact (congrArg BitVec.toNat (State.setTopD_dsAt_top _ hds)).trans (toNat_shiftInsert true _)
  case eight => exact (State.setTopD_dsAt_top _ hds).trans (shiftInsertAll_of_eight_le _ (by decide))

/-- Settles O42: one write of `shiftInsert false` to the top of a legal data stack; eight shift in the number 0. -/
theorem zeroShiftsInClearBit : Obligations.ZeroShiftsInClearBit := by
  rintro s ⟨-, -, -, hds, -, -⟩
  refine ⟨rfl, _, exec_zeroLean s, rfl, ?bits, ?value, State.setTopD_sameSlotsBut _ hds,
    ⟨_, execAll_shiftInstrs hds (List.replicate 8 false), ?eight⟩, rfl, rfl, .of_eq rfl, .of_eq rfl, rfl, rfl, rfl⟩
  case bits => exact (State.setTopD_dsAt_top _ hds).trans (shiftInsert_eq_append false _)
  case value => exact (congrArg BitVec.toNat (State.setTopD_dsAt_top _ hds)).trans (toNat_shiftInsert false _)
  case eight => exact (State.setTopD_dsAt_top _ hds).trans (shiftInsertAll_of_eight_le _ (by decide))

end Sys2Proof.Machine
end

section
/-! A core of zeros (70_reset_and_hazards.md rule R234). The byte 0x00 is NOOP in both variants (R75), so the loop walks
`pc` through core and changes nothing else, and the fetch at CORE_SIZE faults (R92). -/

namespace Sys2Proof

/-- R75: under an admitted map 0x00 is the NOOP of the instance's variant. -/
theorem decode_zero {p : Params} (hp : p.Admitted) :
    decode p 0x00 = .instr .noopRich ∨ decode p 0x00 = .instr .noopLean := by
  have ⟨_, _, hnoop, _, _⟩ := hp
  cases hv : p.variant with
  | rich => exact .inl ((decode_eq_instr_iff hp).2 ⟨hv.symm, hnoop⟩)
  | lean => exact .inr ((decode_eq_instr_iff hp).2 ⟨hv.symm, hnoop⟩)

end Sys2Proof

namespace Sys2Proof.Machine

open Sys2Proof

/-- R90, R93: the step from a fetched byte that the decoder reads as an instruction. -/
theorem step_instr {s : State} {i : Instr} (hp : s.params.Admitted) (hrun : s.run = .running)
    (hpc : s.pc < s.params.coreSize) (hd : decode s.params (s.coreAt s.pc) = .instr i) :
    step s = exec i (s.setPc (s.pc + 1)) := by
  unfold step
  rw [if_pos hp, hrun, fetch_inCore hpc]
  simp only [State.setPc_params, hd]

theorem step_zeroByte {s : State} (hp : s.params.Admitted) (hrun : s.run = .running)
    (hpc : s.pc < s.params.coreSize) (hzero : s.coreAt s.pc = 0x00) : step s = .next (s.setPc (s.pc + 1)) := by
  rcases decode_zero hp with hd | hd <;> rw [← hzero] at hd
  · rw [step_instr hp hrun hpc hd, exec_noopRich]
  · rw [step_instr hp hrun hpc hd, exec_noopLean]

theorem runFor_succ_of_step {s t : State} (h : step s = .next t) (k : Nat) : runFor (k + 1) s = runFor k t := by
  rw [runFor, h]

/-- A run is extended at its end by one step. -/
theorem runFor_succ_of_runFor {k : Nat} {s t u : State} (h : runFor k s = .next t) (ht : step t = .next u) :
    runFor (k + 1) s = .next u := by
  induction k generalizing s with
  | zero =>
    cases h
    exact runFor_succ_of_step ht 0
  | succ k ih =>
    cases hs : step s with
    | next r =>
      rw [runFor_succ_of_step hs] at h ⊢
      exact ih h
    | fault _ | refused _ => rw [runFor, hs] at h; cases h

/-- A running state whose core is zero advances `pc` alone, as far as the end of core. -/
theorem runFor_zeroCore {s : State} {k : Nat} (hp : s.params.Admitted) (hrun : s.run = .running)
    (hzero : ∀ a, s.coreAt a = 0x00) (hk : s.pc + k ≤ s.params.coreSize) :
    runFor k s = .next (s.setPc (s.pc + k)) := by
  induction k with
  | zero => rfl
  | succ k ih =>
    have hprev : runFor k s = .next (s.setPc (s.pc + k)) := ih (by omega)
    exact runFor_succ_of_runFor hprev (step_zeroByte hp hrun hk (hzero _))

theorem Memory.ofImage_zeros (n a : Nat) : Memory.ofImage (List.replicate n 0x00) a = [] := by
  induction n generalizing a with
  | zero => rfl
  | succ n ih => exact ih (a + 1)

theorem launch_zeros {p : Params} (hp : p.Admitted) :
    launch p (List.replicate p.coreSize 0x00) = .next (State.resetOf p) := by
  unfold launch
  rw [if_pos hp, if_pos (by simp), Memory.ofImage_zeros]
  rfl

/-- Settles O21: `runFor_zeroCore` from `pc` 0 as far as CORE_SIZE, where the next step is `step_atEnd`. -/
theorem zeroCoreRunsNoopsThenFaults : Obligations.ZeroCoreRunsNoopsThenFaults := by
  intro p hp
  have hrun (k : Nat) (hk : k ≤ p.coreSize) : runFor k (State.resetOf p) = .next ((State.resetOf p).setPc k) := by
    have h := runFor_zeroCore (s := State.resetOf p) (k := k) hp rfl Memory.read_nil (by simpa using hk)
    rwa [State.resetOf_pc, Nat.zero_add] at h
  have hend : step ((State.resetOf p).setPc p.coreSize) =
      .next (((State.resetOf p).setPc p.coreSize).panic .programCounterOutOfRange) := step_atEnd hp rfl le_rfl
  exact ⟨launch_zeros hp, hrun, runFor_succ_of_runFor (hrun p.coreSize le_rfl) hend⟩

end Sys2Proof.Machine
end

section
/-! The datapath view (40_fetch_decode.md rules R97 to R99). Each handler answers the state its row of the table gives;
after that a property of the next state is read off the row, whose shape is the same for every instruction. -/

namespace Sys2Proof.Machine

open Sys2Proof

/-! ### Rows of the table -/

theorem Controls.failing_of_unchecked {c : Controls} (h : c.checked = none) (s : State) : c.failing s = none := by
  unfold Controls.failing
  rw [h]

theorem Controls.failing_of_checked {c : Controls} {a : Byte} {op : AddressUse} (h : c.checked = some (a, op))
    (s : State) : c.failing s = if a.toNat < s.params.coreSize then none else some op := by
  unfold Controls.failing State.addressInCore uns
  rw [h]
  simp only [decide_eq_true_eq]

/-- The two ways a row ends: its writes, or the fault of its check with the pops done (R204). -/
theorem datapath_cases (i : Instr) (s : State) :
    ((controls i s).failing s = none ∧ datapath i s = (controls i s).writes s) ∨
    (∃ op, (controls i s).failing s = some op ∧
      datapath i s = (s.setDs { s.ds with top := (controls i s).dtop }).panic (.addressOutOfRange op)) := by
  unfold datapath
  cases hf : (controls i s).failing s with
  | none => exact .inl ⟨rfl, rfl⟩
  | some op => exact .inr ⟨op, rfl, rfl⟩

theorem datapath_of_unchecked {i : Instr} {s : State} (h : (controls i s).checked = none) :
    datapath i s = (controls i s).writes s := by
  unfold datapath
  rw [Controls.failing_of_unchecked h]

theorem datapath_of_checked {i : Instr} {s : State} {a : Byte} {op : AddressUse}
    (h : (controls i s).checked = some (a, op)) :
    datapath i s = if a.toNat < s.params.coreSize then (controls i s).writes s
      else (s.setDs { s.ds with top := (controls i s).dtop }).panic (.addressOutOfRange op) := by
  unfold datapath
  rw [Controls.failing_of_checked h]
  by_cases ha : a.toNat < s.params.coreSize
  · rw [if_pos ha, if_pos ha]
  · rw [if_neg ha, if_neg ha]

/-! ### The handlers -/

theorem State.ds1_top {s : State} (h : s.ds.Legal s.params.stackSize) :
    s.ds1.top = slotBefore s.params.stackSize s.dtop :=
  Stack.dec_eq h.2

theorem State.ds2_top {s : State} (h : s.ds.Legal s.params.stackSize) :
    s.ds2.top = slotBefore s.params.stackSize (slotBefore s.params.stackSize s.dtop) := by
  rw [← State.ds1_top h]
  exact Stack.dec_eq (Stack.legal_pop h).2

/-- A push after two pops overwrites the second byte popped. -/
theorem State.ds2_push {s : State} (h : s.ds.Legal s.params.stackSize) (v : Byte) :
    s.ds2.push s.params.stackSize v = s.ds1.setTop v := by
  have htop : s.ds1.top < s.params.stackSize := (Stack.legal_pop h).2
  unfold Stack.push
  rw [Stack.pop_top, Stack.inc_dec htop]
  rfl

/-- R98, R141, R142: the ALU result lands in the slot below the top, which becomes the top. -/
theorem exec_alu {i : Instr} {op : Byte → Byte → Byte} {s : State} (h : s.ds.Legal s.params.stackSize)
    (hi : exec i s = .next (s.aluTopTwo op)) :
    exec i s = .next (s.setDs (s.ds1.setTop (op s.below (s.ds.slot s.ds.top)))) := by
  rw [hi, ← State.ds2_push h]
  rfl

theorem controls_jeqRich_of_zero {s : State} (h : s.acc = 0x00) :
    controls .jeqRich s = { controls .jmpRich s with checked := some (s.ds.slot s.ds.top, .jeq) } :=
  if_pos (beq_iff_eq.2 h)

theorem controls_jeqRich_of_nonzero {s : State} (h : s.acc ≠ 0x00) :
    controls .jeqRich s = { controls .noopRich s with dtop := s.ds1.top } :=
  if_neg fun hz => h (beq_iff_eq.1 hz)

/-- R99: the sign bit, which the table tests for JPOS. -/
theorem getLsbD_seven_iff (b : Byte) : b.getLsbD 7 = true ↔ 128 ≤ b.toNat := by
  have h : b.msb = decide (128 ≤ b.toNat) := BitVec.msb_eq_decide b
  rw [← decide_eq_true_iff (p := 128 ≤ b.toNat), ← h]
  rfl

theorem controls_jposLean_of_nonNegative {s : State} (h : s.below.toNat < 128) :
    controls .jposLean s =
      { controls .jmpLean s with dtop := s.ds2.top, checked := some (s.ds.slot s.ds.top, .jpos) } :=
  if_neg fun hb => Nat.not_lt.2 ((getLsbD_seven_iff s.below).1 hb) h

theorem controls_jposLean_of_negative {s : State} (h : 128 ≤ s.below.toNat) :
    controls .jposLean s = { controls .noopLean s with dtop := s.ds2.top } :=
  if_pos ((getLsbD_seven_iff s.below).2 h)

/-- Settles O17: a row without a check is the handler's writes, one with a check is the handler's two outcomes. ADD and
SUB need a legal stack, on which the push after the two pops goes to the second slot popped. -/
theorem handlersRefineDatapathTable : Obligations.HandlersRefineDatapathTable := by
  rintro i s ⟨-, -, -, hds, -, -⟩ -
  cases i with
  | noopRich | pushRich | popRich | rpushRich | rpopRich | haltRich | noopLean | haltLean | dupLean =>
    rw [datapath_of_unchecked rfl]; rfl
  | addRich | subRich | addLean | subLean =>
    rw [datapath_of_unchecked rfl, exec_alu hds rfl]; rfl
  | oneLean => rw [datapath_of_unchecked rfl, exec_oneLean, shiftInsert_eq_append]; rfl
  | zeroLean => rw [datapath_of_unchecked rfl, exec_zeroLean, shiftInsert_eq_append]; rfl
  | loadRich => rw [datapath_of_checked rfl, exec_loadRich]; rfl
  | storRich => rw [datapath_of_checked rfl, exec_storRich]; rfl
  | loadLean => rw [datapath_of_checked rfl, exec_loadLean]; rfl
  | popLean => rw [datapath_of_checked rfl, exec_popLean]; rfl
  | jmpRich => rw [datapath_of_checked rfl, exec_jmpRich]; rfl
  | jmpLean => rw [datapath_of_checked rfl, exec_jmpLean]; rfl
  | jeqRich =>
    rw [exec_jeqRich]
    by_cases hz : s.acc = 0x00
    · have hrow := controls_jeqRich_of_zero hz
      rw [if_pos hz, datapath_of_checked (congrArg Controls.checked hrow), hrow]; rfl
    · have hrow := controls_jeqRich_of_nonzero hz
      rw [if_neg hz, datapath_of_unchecked (congrArg Controls.checked hrow), hrow]; rfl
  | jposLean =>
    rw [exec_jposLean]
    rcases Nat.lt_or_ge s.below.toNat 128 with hb | hb
    · have hrow := controls_jposLean_of_nonNegative hb
      rw [if_pos hb, datapath_of_checked (congrArg Controls.checked hrow), hrow]; rfl
    · have hrow := controls_jposLean_of_negative hb
      rw [if_neg (Nat.not_lt.2 hb), datapath_of_unchecked (congrArg Controls.checked hrow), hrow]; rfl

end Sys2Proof.Machine
end

section
/-! Legal states (10_state.md rule R39). Each update of one state element keeps a state legal under the condition that
element's legal values ask for; a handler is a few updates, and a step a handler or a fault. -/

namespace Sys2Proof.Machine

open Sys2Proof

/-- The variant has an instruction that raises the reason (R200, R201; I10). -/
abbrev PanicReason.OccursIn (v : Variant) (r : PanicReason) : Prop :=
  (v = .rich → r ≠ .addressOutOfRange .jpos) ∧ (v = .lean → r ≠ .addressOutOfRange .jeq)

section
variable {s : State}

/-! ### The parts of a legal state -/

theorem State.Legal.admitted (hs : s.Legal) : s.params.Admitted := by
  obtain ⟨hp, -⟩ := hs
  exact hp

theorem State.Legal.ds_legal (hs : s.Legal) : s.ds.Legal s.params.stackSize := by
  obtain ⟨-, -, -, hds, -⟩ := hs
  exact hds

theorem State.Legal.rs_legal (hs : s.Legal) (hv : s.params.variant = .rich) : s.rs.Legal s.params.stackSize := by
  obtain ⟨-, -, -, -, ⟨hrich, -⟩, -⟩ := hs
  exact hrich hv

theorem State.Legal.reason_of_running (hs : s.Legal) (hrun : s.run = .running) : s.reason = none := by
  obtain ⟨-, -, -, -, -, hreason, -⟩ := hs
  exact hreason.2 (by simp [hrun])

/-! ### Updates of one element -/

theorem State.Legal.setPc (hs : s.Legal) {a : Nat} (ha : a ≤ s.params.coreSize) : (s.setPc a).Legal := by
  obtain ⟨hp, -, hrest⟩ := hs
  exact ⟨hp, ha, hrest⟩

theorem State.Legal.setDs (hs : s.Legal) {st : Stack} (hst : st.Legal s.params.stackSize) : (s.setDs st).Legal := by
  obtain ⟨hp, hpc, hcore, -, hrest⟩ := hs
  exact ⟨hp, hpc, hcore, hst, hrest⟩

theorem State.Legal.setRs (hs : s.Legal) {st : Stack} (hv : s.params.variant = .rich)
    (hst : st.Legal s.params.stackSize) : (s.setRs st).Legal := by
  obtain ⟨hp, hpc, hcore, hds, -, hreason⟩ := hs
  exact ⟨hp, hpc, hcore, hds, ⟨fun _ => hst, by simp [hv]⟩, hreason⟩

theorem State.Legal.setAcc (hs : s.Legal) (v : Byte) (hv : s.params.variant = .rich) : (s.setAcc v).Legal := by
  obtain ⟨hp, hpc, hcore, hds, ⟨hrs, -⟩, hreason⟩ := hs
  exact ⟨hp, hpc, hcore, hds, ⟨hrs, by simp [hv]⟩, hreason⟩

theorem State.Legal.setCore (hs : s.Legal) {m : List Host.Cell} (hm : Memory.WF m)
    (hlt : ∀ c ∈ m, c.1 < s.params.coreSize) : (s.setCore m).Legal := by
  obtain ⟨hp, hpc, -, hrest⟩ := hs
  exact ⟨hp, hpc, ⟨hm, hlt⟩, hrest⟩

theorem State.Legal.memWrite (hs : s.Legal) {a : Nat} (v : Byte) (ha : a < s.params.coreSize) :
    (s.memWrite a v).Legal := by
  have ⟨_, _, ⟨hwf, hlt⟩, _⟩ := hs
  refine hs.setCore (Memory.wf_write a v hwf) fun c hc => ?_
  rcases Memory.mem_write hc with rfl | hc
  · exact ha
  · exact hlt c hc

theorem State.Legal.halt (hs : s.Legal) (hrun : s.run = .running) : s.halt.Legal := by
  have hnone := hs.reason_of_running hrun
  obtain ⟨hp, hpc, hcore, hds, hrich, -, hother⟩ := hs
  exact ⟨hp, hpc, hcore, hds, hrich, by simp [hnone], hother⟩

theorem State.Legal.panic (hs : s.Legal) {r : PanicReason} (hr : r.OccursIn s.params.variant) : (s.panic r).Legal := by
  obtain ⟨hp, hpc, hcore, hds, hrich, -⟩ := hs
  obtain ⟨hjpos, hjeq⟩ := hr
  exact ⟨hp, hpc, hcore, hds, hrich, by simp, fun hv => by simpa using hjpos hv, fun hv => by simpa using hjeq hv⟩

theorem State.Legal.checked (hs : s.Legal) {a : Byte} {op : AddressUse} {rest : State → State}
    (hop : (PanicReason.addressOutOfRange op).OccursIn s.params.variant)
    (hrest : a.toNat < s.params.coreSize → (rest s).Legal) : (s.checked a op rest).Legal := by
  rcases State.checked_cases a op rest s with ⟨ha, e⟩ | ⟨-, e⟩
  · rw [e]; exact hrest ha
  · rw [e]; exact hs.panic hop

theorem State.Legal.jumpTo (hs : s.Legal) {a : Byte} {op : AddressUse}
    (hop : (PanicReason.addressOutOfRange op).OccursIn s.params.variant) : (s.jumpTo a op).Legal :=
  hs.checked hop fun ha => hs.setPc (Nat.le_of_lt ha)

end

/-! ### Handlers and steps -/

/-- A handler of the instance's variant keeps a running state legal. -/
theorem exec_legal {i : Instr} {s t : State} (hs : s.Legal) (hrun : s.run = .running)
    (hi : i.variant = s.params.variant) (h : exec i s = .next t) : t.Legal := by
  have hds := hs.ds_legal
  have h1 : (s.setDs s.ds1).Legal := hs.setDs (Stack.legal_pop hds)
  have h2 : (s.setDs s.ds2).Legal := hs.setDs (Stack.legal_pop (Stack.legal_pop hds))
  cases i with
  | noopRich | noopLean => cases h; exact hs
  | pushRich | dupLean => cases h; exact hs.setDs (Stack.legal_push _ hds)
  | popRich => cases h; exact h1.setAcc _ hi.symm
  | rpushRich => cases h; exact hs.setRs hi.symm (Stack.legal_push _ (hs.rs_legal hi.symm))
  | rpopRich => cases h; exact (hs.setRs hi.symm (Stack.legal_pop (hs.rs_legal hi.symm))).setAcc _ hi.symm
  | addRich | subRich | addLean | subLean => cases h; exact h2.setDs (Stack.legal_push _ h2.ds_legal)
  | oneLean | zeroLean => cases h; exact hs.setDs (Stack.legal_setTop _ hds)
  | loadRich => cases h; exact h1.checked (hi ▸ by decide) fun _ => h1.setAcc _ hi.symm
  | storRich => cases h; exact h1.checked (hi ▸ by decide) fun ha => h1.memWrite _ ha
  | loadLean => cases h; exact hs.checked (hi ▸ by decide) fun _ => hs.setDs (Stack.legal_setTop _ hds)
  | popLean => cases h; exact h2.checked (hi ▸ by decide) fun ha => h2.memWrite _ ha
  | jmpRich | jmpLean => cases h; exact h1.jumpTo (hi ▸ by decide)
  | jeqRich =>
    replace h := Host.Outcome.next.inj h
    split at h <;> subst h
    · exact h1.jumpTo (hi ▸ by decide)
    · exact h1
  | jposLean =>
    replace h := Host.Outcome.next.inj h
    split at h <;> subst h
    · exact h2.jumpTo (hi ▸ by decide)
    · exact h2
  | haltRich | haltLean => cases h; exact hs.halt hrun

theorem datapath_params (i : Instr) (s : State) : (datapath i s).params = s.params := by
  rcases datapath_cases i s with ⟨-, e⟩ | ⟨op, -, e⟩ <;> rw [e] <;> rfl

/-- Every step of a running legal state is one of these three, and with an instruction it is the row's datapath. -/
theorem step_running_cases {s t : State} (hs : s.Legal) (hrun : s.run = .running) (h : step s = .next t) :
    (s.params.coreSize ≤ s.pc ∧ t = s.panic .programCounterOutOfRange) ∨
    (s.pc < s.params.coreSize ∧ decode s.params (s.coreAt s.pc) = .invalid ∧
      t = (s.setPc (s.pc + 1)).panic .invalidInstruction) ∨
    (s.pc < s.params.coreSize ∧ (s.setPc (s.pc + 1)).Legal ∧ ∃ i, decode s.params (s.coreAt s.pc) = .instr i ∧
      i.variant = s.params.variant ∧ exec i (s.setPc (s.pc + 1)) = .next t ∧ t = datapath i (s.setPc (s.pc + 1))) := by
  obtain ⟨hp, ⟨hstop, -⟩ | ⟨-, hend, ht⟩ | ⟨-, hpc, hd, ht⟩ | ⟨-, hpc, i, hd, hexec⟩⟩ := step_cases h
  · exact absurd hrun hstop
  · exact .inl ⟨hend, ht⟩
  · exact .inr (.inl ⟨hpc, hd, ht⟩)
  · have hfetched : (s.setPc (s.pc + 1)).Legal := hs.setPc hpc
    obtain ⟨hi, -⟩ := (decode_eq_instr_iff hp).1 hd
    have hrow := handlersRefineDatapathTable i _ hfetched hi
    exact .inr (.inr ⟨hpc, hfetched, i, hd, hi, hexec, Host.Outcome.next.inj (hexec.symm.trans hrow)⟩)

/-- Settles O11: a state that has ended is kept, a fault of the fetch or the decoder is one of both variants, and the
rest is `exec_legal`. -/
theorem everyStepKeepsLegalState : Obligations.EveryStepKeepsLegalState := by
  intro s t hs hstep
  by_cases hrun : s.run = .running
  · rcases step_running_cases hs hrun hstep with ⟨-, rfl⟩ | ⟨hpc, -, rfl⟩ | ⟨-, hfetched, i, -, hi, hexec, hrow⟩
    · exact ⟨hs.panic ⟨fun _ => nofun, fun _ => nofun⟩, rfl⟩
    · exact ⟨State.Legal.panic (hs.setPc hpc) ⟨fun _ => nofun, fun _ => nofun⟩, rfl⟩
    · exact ⟨exec_legal hfetched hrun hi hexec, hrow ▸ datapath_params i _⟩
  · obtain ⟨-, ⟨-, rfl⟩ | ⟨hrun', -⟩ | ⟨hrun', -⟩ | ⟨hrun', -⟩⟩ := step_cases hstep
    · exact ⟨hs, rfl⟩
    all_goals exact absurd hrun' hrun

/-! ### Runs -/

/-- HALTED and PANICKED are left by no step (R91). -/
theorem step_ended {s : State} (hp : s.params.Admitted) (hrun : s.run ≠ .running) : step s = .next s := by
  unfold step
  rw [if_pos hp]
  cases hr : s.run with
  | running => exact absurd hr hrun
  | halted | panicked => rfl

/-- A step answers a next state wherever the parameters are admitted. -/
theorem step_next {s : State} (hp : s.params.Admitted) : ∃ t, step s = .next t := by
  by_cases hrun : s.run = .running
  · rcases Nat.lt_or_ge s.pc s.params.coreSize with hpc | hend
    · cases hd : decode s.params (s.coreAt s.pc) with
      | instr i => rw [step_instr hp hrun hpc hd]; exact exec_next i _
      | invalid => exact ⟨_, step_invalid hp hrun hpc hd⟩
    · exact ⟨_, step_atEnd hp hrun hend⟩
  · exact ⟨s, step_ended hp hrun⟩

/-- A run of any length from a legal state answers a legal state of the same instance. -/
theorem runFor_legal {s : State} (hs : s.Legal) (k : Nat) :
    ∃ t, runFor k s = .next t ∧ t.Legal ∧ t.params = s.params := by
  induction k with
  | zero => exact ⟨s, rfl, hs, rfl⟩
  | succ k ih =>
    obtain ⟨t, hrun, ht, hp⟩ := ih
    obtain ⟨u, hstep⟩ := step_next ht.admitted
    obtain ⟨hu, hpu⟩ := everyStepKeepsLegalState t u ht hstep
    exact ⟨u, runFor_succ_of_runFor hrun hstep, hu, hpu.trans hp⟩

/-- Settles O12: a legal state steps, to a legal state. -/
theorem legalStateAlwaysSteps : Obligations.LegalStateAlwaysSteps := by
  intro s hs k
  obtain ⟨t, ht, -⟩ := runFor_legal hs k
  exact ⟨t, ht⟩

/-! ### Reset and launch -/

theorem State.resetOf_legal {p : Params} (hp : p.Admitted) : (State.resetOf p).Legal := by
  have ⟨_, ⟨hstack, _⟩, _⟩ := hp
  refine ⟨hp, Nat.zero_le _, ⟨Memory.wf_nil, by simp⟩, Stack.legal_zeroed hstack, ⟨fun hv => ?_, fun hv => ?_⟩, by simp,
    by simp, by simp⟩
  · rw [State.resetOf_rs_rich (p := p) hv]
    exact Stack.legal_zeroed hstack
  · rw [State.resetOf_params] at hv
    exact ⟨by rw [State.resetOf_rs, hv]; rfl, rfl⟩

/-- Settles O19: the reference RICH parameters are admitted, and any admitted reset state is legal. -/
theorem resetStateIsLegal : Obligations.ResetStateIsLegal :=
  ⟨rfl, State.resetOf_legal (by decide), fun _ => State.resetOf_legal⟩

/-- Settles O20: the image in core is canonical, lies below CORE_SIZE and reads as the list it was made of. -/
theorem launchReplacesCoreByImage : Obligations.LaunchReplacesCoreByImage := by
  intro p image hp
  refine ⟨fun hfit => ⟨(State.resetOf p).setCore (Memory.ofImage image 0), ?_, ?_, fun a => ?_, rfl⟩, fun hlong => ?_⟩
  · unfold launch
    rw [if_pos hp, if_pos hfit]
  · refine (State.resetOf_legal hp).setCore (Memory.wf_ofImage image 0) fun c hc => ?_
    obtain ⟨-, hlt, -⟩ := Memory.le_of_mem_ofImage hc
    exact Nat.lt_of_lt_of_le hlt (by simpa using hfit)
  · exact (Memory.read_ofImage image 0 a).trans (if_pos (Nat.zero_le a))
  · unfold launch
    rw [if_pos hp, if_neg (Nat.not_le.2 hlong)]

end Sys2Proof.Machine
end

section
/-! One step (40_fetch_decode.md rules R90 to R94): what it runs, how it moves `pc` (R22, R181), how it ends a run (R28,
R206), what a fault leaves (R204), and that a run without a jump ends (R187). -/

namespace Sys2Proof.Machine

open Sys2Proof

/-! ### The instruction of the next step -/

theorem State.nextInstr_of_instr {s : State} {i : Instr} (hrun : s.run = .running) (hpc : s.pc < s.params.coreSize)
    (hd : decode s.params (s.coreAt s.pc) = .instr i) : s.nextInstr = some i := by
  unfold State.nextInstr
  rw [hrun, fetch_inCore hpc]
  simp only [State.setPc_params, hd]

theorem State.nextInstr_of_invalid {s : State} (hpc : s.pc < s.params.coreSize)
    (hd : decode s.params (s.coreAt s.pc) = .invalid) : s.nextInstr = none := by
  unfold State.nextInstr
  rw [fetch_inCore hpc]
  cases s.run <;> simp only [State.setPc_params, hd]

theorem State.nextInstr_of_atEnd {s : State} (hpc : s.params.coreSize ≤ s.pc) : s.nextInstr = none := by
  unfold State.nextInstr
  rw [fetch_atEnd hpc]
  cases s.run <;> rfl

/-! ### Rows of the table -/

/-- No row depends on `pc`: its jump target is a byte of the stack. -/
theorem controls_setPc (i : Instr) (s : State) (a : Nat) : controls i (s.setPc a) = controls i s := by
  cases i <;> rfl

theorem Controls.failing_setPc (c : Controls) (s : State) (a : Nat) : c.failing (s.setPc a) = c.failing s := rfl

theorem controls_halts_iff (i : Instr) (s : State) :
    (controls i s).halts = true ↔ i = .haltRich ∨ i = .haltLean := by
  cases i with
  | jeqRich | jposLean => unfold controls; dsimp only; split <;> simp
  | _ => simp [controls]

theorem Controls.checked_of_failing {c : Controls} {s : State} {op : AddressUse} (h : c.failing s = some op) :
    ∃ a, c.checked = some (a, op) := by
  cases hc : c.checked with
  | none => rw [Controls.failing_of_unchecked hc] at h; cases h
  | some check =>
    obtain ⟨a, op'⟩ := check
    rw [Controls.failing_of_checked hc] at h
    split at h
    · cases h
    · cases h; exact ⟨a, rfl⟩

theorem controls_failing_of_halt {i : Instr} (hi : i = .haltRich ∨ i = .haltLean) (s : State) :
    (controls i s).failing s = none := by
  rcases hi with rfl | rfl <;> exact Controls.failing_of_unchecked rfl s

/-- The pops of a row with an address check: one in RICH; in LEAN none for LOAD, one for JMP, two for POP and JPOS. -/
theorem controls_dtop_of_failing {i : Instr} {s : State} {op : AddressUse} (h : (controls i s).failing s = some op) :
    (i.variant = .rich ∧ (controls i s).dtop = s.ds1.top) ∨
    (i.variant = .lean ∧ op = .load ∧ (controls i s).dtop = s.ds.top) ∨
    (i.variant = .lean ∧ op = .jump ∧ (controls i s).dtop = s.ds1.top) ∨
    (i.variant = .lean ∧ (op = .stor ∨ op = .jpos) ∧ (controls i s).dtop = s.ds2.top) := by
  obtain ⟨a, hc⟩ := Controls.checked_of_failing h
  cases i with
  | noopRich | pushRich | popRich | rpushRich | rpopRich | addRich | subRich | haltRich
  | noopLean | addLean | subLean | haltLean | dupLean | oneLean | zeroLean => cases hc
  | loadRich | storRich | jmpRich => exact .inl ⟨rfl, rfl⟩
  | jeqRich =>
    refine .inl ⟨rfl, ?_⟩
    by_cases hz : s.acc = 0x00
    · rw [controls_jeqRich_of_zero hz]; rfl
    · rw [controls_jeqRich_of_nonzero hz]
  | loadLean => cases hc; exact .inr (.inl ⟨rfl, rfl, rfl⟩)
  | jmpLean => cases hc; exact .inr (.inr (.inl ⟨rfl, rfl, rfl⟩))
  | popLean => cases hc; exact .inr (.inr (.inr ⟨rfl, .inl rfl, rfl⟩))
  | jposLean =>
    rcases Nat.lt_or_ge s.below.toNat 128 with hb | hb
    · rw [controls_jposLean_of_nonNegative hb] at hc ⊢
      cases hc
      exact .inr (.inr (.inr ⟨rfl, .inr rfl, rfl⟩))
    · rw [controls_jposLean_of_negative hb] at hc
      cases hc

theorem Controls.writes_pc (c : Controls) (s : State) : (c.writes s).pc = c.pcNext.getD s.pc := rfl

theorem Controls.writes_run (c : Controls) (s : State) :
    (c.writes s).run = if c.halts then .halted else s.run := rfl

theorem Controls.writes_reason (c : Controls) (s : State) : (c.writes s).reason = s.reason := rfl

/-- No row writes PANICKED: only a failing check does. -/
theorem Controls.writes_run_ne_panicked (c : Controls) {s : State} (h : s.run = .running) :
    (c.writes s).run ≠ .panicked := by
  rw [Controls.writes_run, h]
  split <;> simp

/-! ### The statements about one step -/

/-- Settles O6: the fetch reads the byte at `pc` and increments `pc`. -/
theorem stepRunsDecodedInstruction : Obligations.StepRunsDecodedInstruction := fun _ _ => step_instr

/-- Settles O8: `setPc` and then `panic` write `pc`, `run` and `reason` alone. -/
theorem invalidOpcodePanicsAfterIncrement : Obligations.InvalidOpcodePanicsAfterIncrement := fun _ => step_invalid

/-- Settles O9: a step keeps an ended state, so every run does, by induction on its length. -/
theorem terminalStatesHoldUntilReset : Obligations.TerminalStatesHoldUntilReset := by
  intro s hp hrun
  refine ⟨fun k => ?_, step_ended hp hrun, rfl⟩
  induction k with
  | zero => rfl
  | succ k ih => exact runFor_succ_of_runFor ih (step_ended hp hrun)

/-- Settles O10: the step and the launch check the parameters before anything else. -/
theorem unadmittedParametersRefused : Obligations.UnadmittedParametersRefused :=
  ⟨fun _ hp => if_neg hp, fun _ _ hp => if_neg hp⟩

/-- Settles O32: NOOP's handler is the identity, so its step is the fetch. -/
theorem noopOnlyIncrementsPc : Obligations.NoopOnlyIncrementsPc := by
  intro s i hi
  have hexec (u : State) : exec i u = .next u := by
    rcases hi with rfl | rfl
    · exact exec_noopRich u
    · exact exec_noopLean u
  exact ⟨hexec s, fun hp hrun hpc hd => (step_instr hp hrun hpc hd).trans (hexec _)⟩

/-- Settles O13: the faults of the fetch and the decoder keep the fetch's `pc`, and for the handlers it is
`exec_pc_cases`. -/
theorem pcMovesOnlyByFetchAndJump : Obligations.PcMovesOnlyByFetchAndJump := by
  intro s t hs hrun hstep
  have ⟨_, hle, _⟩ := hs
  rcases step_running_cases hs hrun hstep with ⟨hend, rfl⟩ | ⟨hpc, -, rfl⟩ | ⟨hpc, -, i, hd, -, hexec, -⟩
  · exact .inl ⟨Nat.le_antisymm hle hend, rfl⟩
  · exact .inr (.inl ⟨hpc, rfl⟩)
  · rcases exec_pc_cases hexec with hkeep | ⟨hi, hlt, htarget⟩
    · exact .inr (.inl ⟨hpc, hkeep⟩)
    · exact .inr (.inr ⟨hpc, hlt, htarget, i, hi, hd⟩)

/-- Settles O14: the three ways a step of a running state ends, the third split by the check of its row. -/
theorem stepEndsRunExactlyOnHaltOrFault : Obligations.StepEndsRunExactlyOnHaltOrFault := by
  intro s t hs hrun hstep
  have hnone : s.reason = none := hs.reason_of_running hrun
  rcases step_running_cases hs hrun hstep with ⟨hend, rfl⟩ | ⟨hpc, hd, rfl⟩ | ⟨hpc, -, i, hd, -, -, rfl⟩
  · have hnext := State.nextInstr_of_atEnd hend
    simp [hnext, hend, eq_comm]
  · have hnext := State.nextInstr_of_invalid hpc hd
    simp [hnext, hpc, eq_comm]
  · have hnext := State.nextInstr_of_instr hrun hpc hd
    rcases datapath_cases i (s.setPc (s.pc + 1)) with ⟨hf, e⟩ | ⟨op, hf, e⟩ <;>
      rw [controls_setPc, Controls.failing_setPc] at hf <;> rw [e, controls_setPc]
    · refine ⟨?_, by simp [Controls.writes_reason, hnone, hnext, hf, Nat.not_le.2 hpc]⟩
      rw [hnext, Option.some_inj, Option.some_inj, ← controls_halts_iff i s]
      simp [Controls.writes_run, hrun]
    · have hhalt : ¬ (i = .haltRich ∨ i = .haltLean) := fun hi => by
        rw [controls_failing_of_halt hi] at hf
        cases hf
      refine ⟨?_, by simp [hnext, hf, Nat.not_le.2 hpc, eq_comm]⟩
      rw [hnext, Option.some_inj, Option.some_inj]
      simp [hhalt]

/-- Settles O15: a fault of the fetch or the decoder writes `run`, `reason` and `pc` alone; a failing check writes
`dtop` too, as its row gives it; and a row whose check holds takes no fault. -/
theorem faultLeavesOnlyIncrementAndPops : Obligations.FaultLeavesOnlyIncrementAndPops := by
  intro s t hs hrun hstep hpanic
  rcases step_running_cases hs hrun hstep with ⟨-, rfl⟩ | ⟨-, -, rfl⟩ | ⟨-, hfetched, i, -, hi, -, rfl⟩
  · exact ⟨.of_eq rfl, .of_slots_eq rfl, .of_eq rfl, rfl, .inl ⟨rfl, rfl, rfl⟩⟩
  · exact ⟨.of_eq rfl, .of_slots_eq rfl, .of_eq rfl, rfl, .inr (.inl ⟨rfl, rfl, rfl⟩)⟩
  · rcases datapath_cases i (s.setPc (s.pc + 1)) with ⟨hf, e⟩ | ⟨op, hf, e⟩
    · rw [e] at hpanic
      exact absurd hpanic (Controls.writes_run_ne_panicked _ hrun)
    · rw [e]
      refine ⟨.of_eq rfl, .of_slots_eq rfl, .of_eq rfl, rfl, .inr (.inr ⟨op, rfl, rfl, ?_⟩)⟩
      have h1 := State.ds1_top hs.ds_legal
      have h2 := State.ds2_top hs.ds_legal
      have hpops := controls_dtop_of_failing hf
      rw [hi] at hpops
      rcases hpops with ⟨hv, hd⟩ | ⟨hv, rfl, hd⟩ | ⟨hv, rfl, hd⟩ | ⟨hv, rfl | rfl, hd⟩ <;> rw [hv]
      · exact hd.trans h1
      · exact hd
      · exact hd.trans h1
      · exact hd.trans h2
      · exact hd.trans h2

/-! ### A run without a jump -/

/-- A step that takes no jump ends the run or increments `pc`. -/
theorem step_pc_of_noJump {s t : State} (hs : s.Legal) (hrun : s.run = .running) (hjump : s.takesJump = false)
    (hstep : step s = .next t) : t.run ≠ .running ∨ t.pc = s.pc + 1 := by
  rcases step_running_cases hs hrun hstep with ⟨-, rfl⟩ | ⟨-, -, rfl⟩ | ⟨hpc, -, i, hd, -, -, rfl⟩
  · exact .inl (by simp)
  · exact .inl (by simp)
  · rcases datapath_cases i (s.setPc (s.pc + 1)) with ⟨hf, e⟩ | ⟨op, -, e⟩ <;> rw [e]
    · have hnone : (controls i (s.setPc (s.pc + 1))).pcNext = none := by
        simpa [State.takesJump, State.nextInstr_of_instr hrun hpc hd, hf] using hjump
      exact .inr (by rw [Controls.writes_pc, hnone]; rfl)
    · exact .inl (by simp)

/-- While no jump is taken, `k` steps have ended the run or incremented `pc` `k` times. -/
theorem runFor_pc_of_noJump {s t : State} {k : Nat} (hs : s.Legal)
    (hjump : ∀ j u, j < k → runFor j s = .next u → u.takesJump = false) (hk : runFor k s = .next t) :
    t.run ≠ .running ∨ t.pc = s.pc + k := by
  induction k generalizing t with
  | zero => cases hk; exact .inr rfl
  | succ k ih =>
    obtain ⟨u, hu, hlegal, -⟩ := runFor_legal hs k
    obtain ⟨t', hstep⟩ := step_next hlegal.admitted
    have ht : t' = t := Host.Outcome.next.inj ((runFor_succ_of_runFor hu hstep).symm.trans hk)
    subst ht
    by_cases hrun : u.run = .running
    · have hpc : u.pc = s.pc + k :=
        (ih (fun j u hj => hjump j u (Nat.lt_succ_of_lt hj)) hu).resolve_left (not_not.2 hrun)
      rcases step_pc_of_noJump hlegal hrun (hjump k u k.lt_succ_self hu) hstep with h | h
      · exact .inl h
      · exact .inr (by omega)
    · rw [step_ended hlegal.admitted hrun] at hstep
      cases hstep
      exact .inl hrun

/-- Settles O16: CORE_SIZE + 1 increments would leave a legal state with `pc` past CORE_SIZE. -/
theorem runWithoutJumpEnds : Obligations.RunWithoutJumpEnds := by
  intro s hs hjump
  obtain ⟨t, ht, ⟨-, hle, -⟩, hp⟩ := runFor_legal hs (s.params.coreSize + 1)
  refine ⟨t, ht, ?_⟩
  rcases runFor_pc_of_noJump hs (fun j u hj => hjump j u (Nat.le_of_lt_succ hj)) ht with h | h
  · exact h
  · rw [hp] at hle
    omega

end Sys2Proof.Machine
end

section
/-! The encoding (30_encoding.md rules R70 to R76): an instruction's byte read back, the bytes of the default map, the
bytes that are illegal, and a table word placed at `pc` (assumption log 11). -/

namespace Sys2Proof

/-! ### Legal bytes -/

/-- Settles O2: the encoding is the byte the map gives, which `decode_opcode` reads back. -/
theorem decodeOfEncodeIsTheInstruction : Obligations.DecodeOfEncodeIsTheInstruction := fun p i hp hi =>
  ⟨p.opcode i, rfl, decode_opcode hp hi⟩

theorem Params.reference_admitted (v : Variant) : (Params.reference v).Admitted := by
  cases v <;> decide

/-- Settles O3: each byte is the one the admitted default map gives its row. -/
theorem defaultWordsDecode : Obligations.DefaultWordsDecode := by
  unfold Obligations.DefaultWordsDecode
  and_intros <;> exact (decode_eq_instr_iff (Params.reference_admitted _)).2 ⟨rfl, rfl⟩

/-! ### Illegal bytes -/

/-- A byte is legal when its number is one of those the map gives the variant. -/
theorem decode_ne_invalid_iff {p : Params} {b : Byte} :
    decode p b ≠ .invalid ↔ b.toNat ∈ (p.opcodeMap.bytes p.variant).map BitVec.toNat := by
  rw [List.mem_map_of_injective fun _ _ => BitVec.eq_of_toNat_eq, ne_eq, decode_eq_invalid_iff]
  simp [OpcodeMap.bytes, Variant.mem_instrs, Params.opcode]

/-- The legal bytes among 0..255, as the decoder tells them, are those the map gives. -/
theorem legalBytes_perm {p : Params} (hp : p.Admitted) :
    ((List.range 256).filter fun b => !decide (decode p (BitVec.ofNat 8 b) = .invalid)).Perm
      ((p.opcodeMap.bytes p.variant).map BitVec.toNat) := by
  obtain ⟨-, -, hmap⟩ := hp
  have hnodup := (hmap.nodup_bytes p.variant).map fun _ _ => BitVec.eq_of_toNat_eq
  refine (List.perm_ext_iff_of_nodup (List.nodup_range.filter _) hnodup).2 fun n => ?_
  rw [List.mem_filter, List.mem_range, ← decide_not, decide_eq_true_eq, ← ne_eq, decode_ne_invalid_iff,
    BitVec.toNat_ofNat]
  constructor
  · rintro ⟨hn, hmem⟩
    rwa [Nat.mod_eq_of_lt hn] at hmem
  · intro hmem
    obtain ⟨b, -, rfl⟩ := List.mem_map.1 hmem
    exact ⟨b.isLt, by rwa [Nat.mod_eq_of_lt b.isLt]⟩

/-- R76: an admitted map leaves 256 bytes less the instructions of the variant illegal. -/
theorem illegalBytes_length {p : Params} (hp : p.Admitted) :
    ((List.range 256).filter fun b => decide (decode p (BitVec.ofNat 8 b) = .invalid)).length =
      256 - p.variant.instrs.length := by
  have hsplit := List.length_eq_length_filter_add (l := List.range 256)
    fun b => decide (decode p (BitVec.ofNat 8 b) = .invalid)
  rw [(legalBytes_perm hp).length_eq, List.length_range, List.length_map, OpcodeMap.bytes, List.length_map] at hsplit
  omega

theorem defaultBytes_rich : (OpcodeMap.default.bytes .rich).map BitVec.toNat = List.range 12 := by decide

theorem defaultBytes_lean :
    (OpcodeMap.default.bytes .lean).map BitVec.toNat = [0, 2, 5, 6, 7, 9, 11, 12, 13, 14, 15] := by decide

/-- Settles O4: the count is `illegalBytes_length`; the lists are the complements of the default map's bytes. -/
theorem illegalBytesAreCountedAndListed : Obligations.IllegalBytesAreCountedAndListed := by
  refine ⟨fun p hp => ?_, fun b => ?_, fun b => ?_⟩
  · rw [illegalBytes_length hp]
    cases p.variant <;> rfl
  · have h : decode (.reference .rich) b ≠ .invalid ↔ b.toNat ∈ List.range 12 :=
      defaultBytes_rich ▸ decode_ne_invalid_iff
    rw [← not_iff_not, ← ne_eq, h, List.mem_range, Nat.not_le]
  · have h : decode (.reference .lean) b ≠ .invalid ↔ b.toNat ∈ [0, 2, 5, 6, 7, 9, 11, 12, 13, 14, 15] :=
      defaultBytes_lean ▸ decode_ne_invalid_iff
    rw [← not_iff_not, ← ne_eq, h]
    simp only [List.mem_cons, List.not_mem_nil, or_false]
    omega

/-! ### A table word -/

theorem OpcodeMap.default_wellFormed : OpcodeMap.default.WellFormed := by decide

/-- Under the default map the sizes alone decide whether parameters are admitted. -/
theorem Params.Admitted.withDefaultMap {p : Params} (hp : p.Admitted) (v : Variant) :
    ({ p with variant := v, opcodeMap := .default } : Params).Admitted := by
  obtain ⟨hcore, hstack, -⟩ := hp
  exact ⟨hcore, hstack, OpcodeMap.default_wellFormed⟩

theorem decode_of_decodeTableWord {nbits w : Nat} {i : Instr} (h : decodeTableWord nbits w = some i) :
    decode (.reference i.variant) (tableByte nbits w) = .instr i := by
  have hvariant {v : Variant} (hd : decode (.reference v) (tableByte nbits w) = .instr i) :
      decode (.reference i.variant) (tableByte nbits w) = .instr i := by
    obtain ⟨hi, -⟩ := (decode_eq_instr_iff (Params.reference_admitted v)).1 hd
    rw [hi]
    exact hd
  unfold decodeTableWord at h
  split at h
  · next j hj => cases h; exact hvariant hj
  · split at h
    · next j hj => cases h; exact hvariant hj
    · cases h

end Sys2Proof

namespace Sys2Proof.Machine

open Sys2Proof

theorem State.asInstance_params (v : Variant) (s : State) :
    (s.asInstance v).params = { s.params with variant := v, opcodeMap := .default } := by
  unfold State.asInstance
  split
  · next hv => rw [← hv]
  · rfl

theorem State.asInstance_pc (v : Variant) (s : State) : (s.asInstance v).pc = s.pc := by
  unfold State.asInstance
  split <;> rfl

theorem State.asInstance_core (v : Variant) (s : State) : (s.asInstance v).core = s.core := by
  unfold State.asInstance
  split <;> rfl

theorem State.asInstance_run (v : Variant) (s : State) : (s.asInstance v).run = s.run := by
  unfold State.asInstance
  split <;> rfl

theorem State.legalReason_of_running {s : State} (hrun : s.run = .running) (hnone : s.reason = none) :
    s.LegalReason := by
  simp [State.LegalReason, hrun, hnone]

/-- A running state stays legal in another instance: what is RICH alone stands at its reset values. -/
theorem State.Legal.asInstance {s : State} (hs : s.Legal) (hrun : s.run = .running) (v : Variant) :
    (s.asInstance v).Legal := by
  have hnone := hs.reason_of_running hrun
  obtain ⟨hp, hpc, hcore, hds, hrich, -⟩ := hs
  have hp' := hp.withDefaultMap v
  unfold State.asInstance
  split
  · next hv =>
    subst hv
    exact ⟨hp', hpc, hcore, hds, hrich, State.legalReason_of_running hrun hnone⟩
  · refine ⟨hp', hpc, hcore, hds, ⟨fun hv => ?_, fun hv => ?_⟩, State.legalReason_of_running hrun hnone⟩
    · cases hv; exact Stack.legal_zeroed (by obtain ⟨-, ⟨h, -⟩, -⟩ := hp; exact h)
    · cases hv; exact ⟨rfl, rfl⟩

theorem State.withFetchWord_eq {s : State} {nbits w : Nat} {i : Instr} (hpc : s.pc < s.params.coreSize)
    (h : decodeTableWord nbits w = some i) :
    s.withFetchWord nbits w = (s.memWrite s.pc (tableByte nbits w)).asInstance i.variant := by
  unfold State.withFetchWord placeWord State.pcInCore
  rw [decide_eq_true hpc, if_pos rfl, h]

/-- Settles O5: the byte stands at `pc` and the instance reads it as the table does, so the step is `step_instr`. -/
theorem placedTableWordRunsNext : Obligations.PlacedTableWordRunsNext := by
  intro s nbits w i hs hrun hpc hw
  rw [State.withFetchWord_eq hpc hw]
  have hlegal := (hs.memWrite (tableByte nbits w) hpc).asInstance hrun i.variant
  refine ⟨?_, hlegal⟩
  have hstep := step_instr (i := i) hlegal.admitted
  rw [State.asInstance_run, State.asInstance_params, State.asInstance_pc, State.coreAt, State.asInstance_core,
    State.memWrite_core, State.memWrite_pc, Memory.read_write, if_pos rfl] at hstep
  exact hstep hrun hpc (decode_of_decodeTableWord hw)

end Sys2Proof.Machine
end

section
/-! The width of `pc` (00_scope.md rule R6, D5) and the status outputs (60_exceptions.md rule R201, D14). -/

namespace Sys2Proof

/-- D5: PC_W is the first width whose values exceed CORE_SIZE; nine bits are enough for every admitted CORE_SIZE. -/
theorem Params.pcWidth_least {p : Params} (hp : p.Admitted) :
    p.coreSize < 2 ^ p.pcWidth ∧ ∀ w, p.coreSize < 2 ^ w → p.pcWidth ≤ w := by
  obtain ⟨⟨-, hmax⟩, -⟩ := hp
  unfold Params.pcWidth
  cases hf : (List.range 10).find? fun w => decide (p.coreSize < 2 ^ w) with
  | none =>
    have hnine := List.find?_eq_none.1 hf 9 (by decide)
    simp only [decide_eq_true_eq] at hnine
    omega
  | some w =>
    obtain ⟨hw, -, hless⟩ := List.find?_range_eq_some.1 hf
    refine ⟨of_decide_eq_true hw, fun v hv => Nat.le_of_not_lt fun hlt => ?_⟩
    simpa [hv] using hless v hlt

end Sys2Proof

namespace Sys2Proof.Machine

open Sys2Proof

/-- Settles O22: a legal `pc` is at most CORE_SIZE, which the least width exceeds. -/
theorem pcFitsLeastRegisterWidth : Obligations.PcFitsLeastRegisterWidth := by
  rintro s ⟨hp, hpc, -⟩
  obtain ⟨hfits, hleast⟩ := Params.pcWidth_least hp
  exact ⟨Nat.lt_of_le_of_lt hpc hfits, hleast⟩

/-- The reason behind a fault code. -/
def reasonOfCode (c : BitVec 3) : Option PanicReason :=
  match c.toNat with
  | 1 => some .programCounterOutOfRange
  | 2 => some .invalidInstruction
  | 3 => some (.addressOutOfRange .load)
  | 4 => some (.addressOutOfRange .stor)
  | 5 => some (.addressOutOfRange .jump)
  | 6 => some (.addressOutOfRange .jeq)
  | 7 => some (.addressOutOfRange .jpos)
  | _ => none

theorem reasonOfCode_faultCode (r : Option PanicReason) : reasonOfCode (faultCode r) = r := by
  obtain _ | _ | _ | op := r
  case some.addressOutOfRange => cases op <;> rfl
  all_goals rfl

theorem statusCode_injective : Function.Injective statusCode := by
  intro a b h
  revert h
  cases a <;> cases b <;> decide

/-- R201: the outputs tell every loop state and every reason apart. -/
theorem ports_eq_iff (s t : State) : ports s = ports t ↔ s.run = t.run ∧ s.reason = t.reason := by
  unfold ports
  rw [Ports.mk.injEq, statusCode_injective.eq_iff,
    (Function.LeftInverse.injective reasonOfCode_faultCode).eq_iff]

theorem statusCode_ne_three (r : RunState) : statusCode r ≠ 0b11 := by
  cases r <;> decide

/-- R96: the result of a state whose reason stands exactly in PANICKED. -/
theorem executionResult_iff {s : State} (h : s.reason = none ↔ s.run ≠ .panicked) :
    (executionResult s = some .ok ↔ s.run = .halted) ∧
    (∀ r, executionResult s = some (.panic r) ↔ s.run = .panicked ∧ s.reason = some r) ∧
    (executionResult s = none ↔ s.run = .running) := by
  unfold executionResult
  cases hr : s.run with
  | running | halted => simp
  | panicked =>
    cases hreason : s.reason with
    | none => simp [hr, hreason] at h
    | some r => simp

/-- Settles O23: the tables row by row, their injectivity, and the result in each loop state. -/
theorem outputsTellResultApart : Obligations.OutputsTellResultApart := by
  refine ⟨fun s => ?_, ports_eq_iff, fun s hs => ?_⟩
  · dsimp only [ports]
    and_intros <;> intro h <;> rw [h] <;> rfl
  · obtain ⟨-, -, -, -, -, hreason, -⟩ := hs
    exact ⟨statusCode_ne_three s.run, executionResult_iff hreason⟩

end Sys2Proof.Machine
end

section
/-! Many pushes and pops (10_state.md rules R30 to R34; W2 of 95_test_vectors.md). A stack is read through the bytes at
each depth below its top: pops give them in order, and a push puts one more byte on them, down to depth STACK_SIZE. -/

namespace Sys2Proof.Machine

open Sys2Proof

/-- The byte `j` slots below the top. -/
def Stack.atDepth (n : Nat) (st : Stack) (j : Nat) : Byte := st.slot ((Stack.dec n)^[j] st.top)

/-! ### Where the index goes -/

theorem Stack.iterate_dec {n i k : Nat} (hi : i < n) (hk : k ≤ n) : (Stack.dec n)^[k] i = (i + n - k) % n := by
  induction k with
  | zero => rw [Function.iterate_zero_apply, Nat.sub_zero, Nat.add_mod_right, Nat.mod_eq_of_lt hi]
  | succ k ih =>
    rw [Function.iterate_succ_apply', ih (by omega), Stack.dec, Nat.add_sub_assoc (by omega), Nat.mod_add_mod,
      show i + n - k + (n - 1) = i + n - (k + 1) + n by omega, Nat.add_mod_right]

/-- Retreating STACK_SIZE times comes back to the same slot (R30). -/
theorem Stack.iterate_dec_self {n i : Nat} (hi : i < n) : (Stack.dec n)^[n] i = i := by
  rw [Stack.iterate_dec hi le_rfl, Nat.add_sub_cancel, Nat.mod_eq_of_lt hi]

/-- Retreating fewer times comes to another slot. -/
theorem Stack.iterate_dec_ne {n i k : Nat} (hi : i < n) (hk : 0 < k) (hkn : k < n) : (Stack.dec n)^[k] i ≠ i := by
  rw [Stack.iterate_dec hi hkn.le]
  rcases Nat.lt_or_ge i k with h | h
  · rw [Nat.mod_eq_of_lt (by omega)]
    omega
  · rw [show i + n - k = i - k + n by omega, Nat.add_mod_right, Nat.mod_eq_of_lt (by omega)]
    omega

/-! ### Pops -/

theorem Stack.popMany_fst (n k : Nat) (st : Stack) :
    (Stack.popMany n k st).1 = (List.range k).map (st.atDepth n) := by
  induction k generalizing st with
  | zero => rfl
  | succ k ih =>
    have hcons : (Stack.popMany n (k + 1) st).1 = st.atDepth n 0 :: (Stack.popMany n k (st.pop n).2).1 := rfl
    rw [hcons, ih, List.range_succ_eq_map, List.map_cons, List.map_map]
    rfl

theorem Stack.popMany_top (n k : Nat) (st : Stack) : (Stack.popMany n k st).2.top = (Stack.dec n)^[k] st.top := by
  induction k generalizing st with
  | zero => rfl
  | succ k ih => exact ih (st.pop n).2

/-! ### Pushes -/

theorem Stack.pushAll_append_singleton (n : Nat) (vs : List Byte) (v : Byte) (st : Stack) :
    Stack.pushAll n (vs ++ [v]) st = (Stack.pushAll n vs st).push n v := by
  induction vs generalizing st with
  | nil => rfl
  | cons w vs ih => exact ih (st.push n w)

theorem Stack.legal_pushAll {n : Nat} {st : Stack} (vs : List Byte) (h : st.Legal n) :
    (Stack.pushAll n vs st).Legal n := by
  induction vs generalizing st with
  | nil => exact h
  | cons v vs ih => exact ih (Stack.legal_push v h)

theorem Stack.atDepth_push_zero {n : Nat} {st : Stack} (v : Byte) (h : st.Legal n) :
    (st.push n v).atDepth n 0 = v :=
  Stack.push_slot_top v h

/-- A push leaves the bytes below it, but for the one it overwrites, at depth STACK_SIZE - 1 of the old stack. -/
theorem Stack.atDepth_push_succ {n j : Nat} {st : Stack} (v : Byte) (h : st.Legal n) (hj : j + 1 < n) :
    (st.push n v).atDepth n (j + 1) = st.atDepth n j := by
  have htop : Stack.inc n st.top < n := Stack.inc_lt _ (by omega)
  have hdec : (Stack.dec n)^[j + 1] (Stack.inc n st.top) = (Stack.dec n)^[j] st.top := by
    rw [Function.iterate_succ_apply, Stack.dec_inc h.2]
  have hne : (Stack.dec n)^[j] st.top ≠ Stack.inc n st.top := hdec ▸ Stack.iterate_dec_ne htop j.succ_pos hj
  unfold Stack.atDepth
  rw [Stack.push_top, hdec, Stack.push_slot v h, if_neg hne]

/-- R31, R34: the newest STACK_SIZE bytes pushed stand below the top, newest first. -/
theorem Stack.atDepth_pushAll {n j : Nat} {vs : List Byte} {st : Stack} (h : st.Legal n) (hj : j < n)
    (hvs : j < vs.length) : vs.reverse[j]? = some ((Stack.pushAll n vs st).atDepth n j) := by
  induction vs using List.reverseRecOn generalizing j with
  | nil => cases hvs
  | append_singleton vs v ih =>
    have hlegal := Stack.legal_pushAll vs h
    rw [Stack.pushAll_append_singleton, List.reverse_append, List.reverse_singleton, List.singleton_append]
    cases j with
    | zero => rw [Stack.atDepth_push_zero v hlegal]; rfl
    | succ j =>
      rw [Stack.atDepth_push_succ v hlegal hj, List.getElem?_cons_succ]
      exact ih (by omega) (by simpa using hvs)

theorem Stack.iterate_dec_pushAll {n : Nat} {st : Stack} (vs : List Byte) (h : st.Legal n) :
    (Stack.dec n)^[vs.length] (Stack.pushAll n vs st).top = st.top := by
  induction vs generalizing st with
  | nil => rfl
  | cons v vs ih =>
    have hih : (Stack.dec n)^[vs.length] (Stack.pushAll n (v :: vs) st).top = (st.push n v).top :=
      ih (Stack.legal_push v h)
    rw [List.length_cons, Function.iterate_succ_apply', hih, Stack.push_top, Stack.dec_inc h.2]

/-! ### Pushes, then pops -/

/-- Up to STACK_SIZE pops give the bytes pushed, newest first. -/
theorem Stack.popMany_pushAll {n k : Nat} {vs : List Byte} {st : Stack} (h : st.Legal n) (hkn : k ≤ n)
    (hk : k ≤ vs.length) : (Stack.popMany n k (Stack.pushAll n vs st)).1 = vs.reverse.take k := by
  rw [Stack.popMany_fst]
  refine List.ext_getElem? fun j => ?_
  rw [List.getElem?_take]
  split
  · next hj =>
    rw [Stack.atDepth_pushAll h (by omega) (by omega), List.getElem?_map, List.getElem?_range hj]
    rfl
  · next hj => exact List.getElem?_eq_none (by simpa using hj)

/-- One pop more than there are slots gives the first byte again. -/
theorem Stack.popMany_succ_self {n : Nat} {st : Stack} (h : st.Legal n) :
    (Stack.popMany n (n + 1) st).1 = (Stack.popMany n n st).1 ++ (Stack.popMany n 1 st).1 := by
  have hwrap : st.atDepth n n = st.atDepth n 0 := congrArg st.slot (Stack.iterate_dec_self h.2)
  rw [Stack.popMany_fst, Stack.popMany_fst, Stack.popMany_fst, List.range_succ, List.map_append]
  exact congrArg (_ ++ [·]) hwrap

/-- Settles O28: the bytes popped are those at rising depths, and the index comes back by as many retreats. -/
theorem stackReturnsNewestFirst : Obligations.StackReturnsNewestFirst := by
  intro n vs st h
  have hn : 0 < n := Nat.zero_lt_of_lt h.2
  refine ⟨fun k => Stack.popMany_pushAll h, fun _ => ?_, fun hvs => ?_⟩
  · rw [Stack.popMany_top, Stack.iterate_dec_pushAll vs h]
  · rw [Stack.popMany_succ_self (Stack.legal_pushAll vs h), Stack.popMany_pushAll h le_rfl hvs,
      Stack.popMany_pushAll h hn (hn.trans_le hvs)]

end Sys2Proof.Machine
end

section
/-! Who reads and writes the accumulator and core (10_state.md rules R26, R36). As for the return stack, running a
handler that does not read an element commutes with replacing it, and one that does not write it leaves it as it was. -/

namespace Sys2Proof.Machine

open Sys2Proof

/-! ### Guarded accesses -/

/-- A guarded access leaves what the access and a fault leave. -/
theorem State.checked_keeps {α : Type} (f : State → α) {a : Byte} {op : AddressUse} {rest : State → State} {s : State}
    (hpanic : f (s.panic (.addressOutOfRange op)) = f s) (hrest : f (rest s) = f s) :
    f (s.checked a op rest) = f s := by
  rcases State.checked_cases a op rest s with ⟨-, e⟩ | ⟨-, e⟩
  · rw [e, hrest]
  · rw [e, hpanic]

/-- A guarded access commutes with an update that the access and a fault commute with. -/
theorem State.checked_comm (f : State → State) {a : Byte} {op : AddressUse} {rest : State → State} {s : State}
    (hparams : (f s).params = s.params)
    (hpanic : (f s).panic (.addressOutOfRange op) = f (s.panic (.addressOutOfRange op)))
    (hrest : rest (f s) = f (rest s)) : (f s).checked a op rest = f (s.checked a op rest) := by
  rw [State.checked_eq, State.checked_eq, hparams, hpanic, hrest, apply_ite f]

theorem State.jumpTo_comm (f : State → State) {a : Byte} {op : AddressUse} {s : State}
    (hparams : (f s).params = s.params)
    (hpanic : (f s).panic (.addressOutOfRange op) = f (s.panic (.addressOutOfRange op)))
    (hpc : (f s).setPc a.toNat = f (s.setPc a.toNat)) : (f s).jumpTo a op = f (s.jumpTo a op) :=
  State.checked_comm f hparams hpanic hpc

/-! ### The accumulator -/

/-- R26: what no instruction but POP, RPOP and RICH LOAD writes. -/
theorem exec_acc {i : Instr} {s t : State} (hi : i ∉ [Instr.popRich, .rpopRich, .loadRich])
    (h : exec i s = .next t) : t.acc = s.acc := by
  cases i with
  | popRich | rpopRich | loadRich => simp at hi
  | noopRich | pushRich | rpushRich | addRich | subRich | haltRich
  | noopLean | addLean | subLean | haltLean | dupLean | oneLean | zeroLean => cases h; rfl
  | storRich | loadLean | popLean | jmpRich | jmpLean => cases h; exact State.checked_keeps State.acc rfl rfl
  | jeqRich | jposLean =>
    replace h := Host.Outcome.next.inj h
    split at h <;> subst h
    · exact State.checked_keeps State.acc rfl rfl
    · rfl

/-- R26: what no instruction but PUSH, RPUSH, STOR and JEQ reads; the three that write it do so whatever it held. -/
theorem exec_setAcc {i : Instr} {s t : State} (v : Byte) (hi : i ∉ [Instr.pushRich, .rpushRich, .storRich, .jeqRich])
    (h : exec i s = .next t) :
    exec i (s.setAcc v) = .next t ∨ exec i (s.setAcc v) = .next (t.setAcc v) := by
  cases i with
  | pushRich | rpushRich | storRich | jeqRich => simp at hi
  | popRich | rpopRich => cases h; exact .inl rfl
  | noopRich | addRich | subRich | haltRich
  | noopLean | addLean | subLean | haltLean | dupLean | oneLean | zeroLean => cases h; exact .inr rfl
  | loadRich =>
    rw [exec_loadRich] at h ⊢
    cases h
    by_cases ha : (s.ds.slot s.ds.top).toNat < s.params.coreSize
    · left; rw [if_pos ha]; exact congrArg _ (if_pos ha)
    · right; rw [if_neg ha]; exact congrArg _ (if_neg ha)
  | loadLean | popLean => cases h; right; rw [← State.checked_comm (State.setAcc v)] <;> rfl
  | jmpRich | jmpLean => cases h; right; rw [← State.jumpTo_comm (State.setAcc v)] <;> rfl
  | jposLean =>
    cases h; right; rw [apply_ite (State.setAcc v), ← State.jumpTo_comm (State.setAcc v)] <;> rfl

/-- Settles O30: the writers are `exec_acc`, the readers `exec_setAcc`. -/
theorem accumulatorReadersAndWriters : Obligations.AccumulatorReadersAndWriters := by
  intro i s v
  obtain ⟨t, ht⟩ := exec_next i s
  exact ⟨fun hi => ⟨t, ht, exec_acc hi ht⟩, fun hi => ⟨t, ht, exec_setAcc v hi ht⟩⟩

/-! ### Core -/

/-- R36: what no instruction but STOR and the LEAN POP writes. -/
theorem exec_core {i : Instr} {s t : State} (hstor : i ≠ .storRich) (hpop : i ≠ .popLean)
    (h : exec i s = .next t) : t.core = s.core := by
  cases i with
  | storRich => exact absurd rfl hstor
  | popLean => exact absurd rfl hpop
  | noopRich | pushRich | popRich | rpushRich | rpopRich | addRich | subRich | haltRich
  | noopLean | addLean | subLean | haltLean | dupLean | oneLean | zeroLean => cases h; rfl
  | loadRich | loadLean | jmpRich | jmpLean => cases h; exact State.checked_keeps State.core rfl rfl
  | jeqRich | jposLean =>
    replace h := Host.Outcome.next.inj h
    split at h <;> subst h
    · exact State.checked_keeps State.core rfl rfl
    · rfl

/-- R50: what only the two LOADs and the two stores reach. -/
theorem exec_setCore {i : Instr} {s t : State} (m : List Host.Cell)
    (hi : i ∉ [Instr.storRich, .popLean, .loadRich, .loadLean]) (h : exec i s = .next t) :
    exec i (s.setCore m) = .next (t.setCore m) := by
  cases i with
  | storRich | popLean | loadRich | loadLean => simp at hi
  | noopRich | pushRich | popRich | rpushRich | rpopRich | addRich | subRich | haltRich
  | noopLean | addLean | subLean | haltLean | dupLean | oneLean | zeroLean => cases h; rfl
  | jmpRich | jmpLean => cases h; rw [← State.jumpTo_comm (State.setCore m)] <;> rfl
  | jeqRich | jposLean =>
    cases h; rw [apply_ite (State.setCore m), ← State.jumpTo_comm (State.setCore m)] <;> rfl

/-! ### The two stores -/

theorem Memory.read_write_same (m : List Host.Cell) (a : Nat) (v : Byte) : Memory.read (Memory.write m a v) a = v := by
  rw [Memory.read_write, if_pos rfl]

theorem Memory.read_write_of_ne {m : List Host.Cell} {a b : Nat} (v : Byte) (h : b ≠ a) :
    Memory.read (Memory.write m a v) b = Memory.read m b := by
  rw [Memory.read_write, if_neg h]

theorem SameCoreBut.of_write {s t : State} {a : Nat} {v : Byte} (h : t.core = Memory.write s.core a v) :
    SameCoreBut a s t := fun b hb =>
  (congrArg (Memory.read · b) h).trans (Memory.read_write_of_ne v hb)

/-- The instruction stores `v` at address `a`: STOR the accumulator at the top, the LEAN POP the top at the byte below
it (R162, R166). -/
def IsStore (i : Instr) (s : State) (a v : Byte) : Prop :=
  i = .storRich ∧ a = s.dsAt s.dtop ∧ v = s.acc ∨
  i = .popLean ∧ a = s.dsAt (slotBefore s.params.stackSize s.dtop) ∧ v = s.dsAt s.dtop

/-- A store pops, and then writes the one byte or faults. The stack it leaves does not depend on core. -/
theorem exec_store {i : Instr} {s : State} {a v : Byte} (hs : s.ds.Legal s.params.stackSize) (h : IsStore i s a v) :
    ∃ st, ∀ m, exec i (s.setCore m) = .next (if a.toNat < s.params.coreSize
      then ((s.setCore m).setDs st).memWrite a.toNat v
      else ((s.setCore m).setDs st).panic (.addressOutOfRange .stor)) := by
  rcases h with ⟨rfl, rfl, rfl⟩ | ⟨rfl, rfl, rfl⟩
  · exact ⟨s.ds1, fun m => exec_storRich (s.setCore m)⟩
  · refine ⟨s.ds2, fun m => ?_⟩
    rw [← Stack.dec_eq hs.2]
    exact exec_popLean (s.setCore m)

/-- Settles O31: the other handlers are `exec_core` and `exec_setCore`; the stores, from the state's own core and from
another, are `exec_store`. -/
theorem coreReadersAndWriters : Obligations.CoreReadersAndWriters := by
  intro i s m
  obtain ⟨t, ht⟩ := exec_next i s
  refine ⟨fun hstor hpop => ⟨t, ht, .of_eq (exec_core hstor hpop ht)⟩,
    fun hstor hpop hrich hlean => ⟨t, ht, exec_setCore m (by simp [*]) ht⟩, fun a v hs hi => ?_⟩
  obtain ⟨st, hexec⟩ := exec_store hs.ds_legal hi
  refine ⟨_, if a.toNat < s.params.coreSize then Memory.write m a.toNat v else m, hexec s.core, ?_, ?_, ?_⟩
  · refine (hexec m).trans (congrArg _ ?_)
    split <;> rfl
  · intro ha
    rw [if_pos ha, if_pos ha]
    exact ⟨Memory.read_write_same .., .of_write rfl, Memory.read_write_same .., fun b => Memory.read_write_of_ne v⟩
  · intro ha
    rw [if_neg (Nat.not_lt.2 ha), if_neg (Nat.not_lt.2 ha)]
    exact ⟨.of_eq rfl, rfl⟩

/-- Settles O24: the fetch after a store is a read after a write. -/
theorem storeSeenByNextFetch : Obligations.StoreSeenByNextFetch := by
  intro s i a v hs hi ha
  obtain ⟨st, hexec⟩ := exec_store hs.ds_legal hi
  have h := hexec s.core
  rw [if_pos ha] at h
  refine ⟨_, h, .of_write rfl, rfl, (fetch_inCore ha).trans ?_⟩
  exact congrArg (fun b => some (b, _)) (Memory.read_write_same ..)

end Sys2Proof.Machine
end

section
/-! The ALU and constants (42_alu.md). ADD and SUB are one write to the slot below the top, which becomes the top (R98);
SETB's eight lines shift in the eight bits of its byte (R79). -/

namespace Sys2Proof.Machine

open Sys2Proof

/-! ### ADD and SUB -/

/-- R141, R142: the net effect of an ALU instruction on the top two, the operands in the order second, top. -/
theorem exec_alu_effect {i : Instr} {op : Byte → Byte → Byte} {s : State} (h : s.ds.Legal s.params.stackSize)
    (hi : exec i s = .next (s.aluTopTwo op)) :
    ∃ t, exec i s = .next t ∧ t.dtop = slotBefore s.params.stackSize s.dtop ∧
      t.dsAt t.dtop = op (s.dsAt t.dtop) (s.dsAt s.dtop) ∧ SameSlotsBut t.dtop s t ∧
      t.acc = s.acc ∧ t.pc = s.pc ∧ SameReturn s t ∧ SameCore s t ∧ SameStatus s t := by
  have hpop : s.ds1.Legal s.params.stackSize := Stack.legal_pop h
  refine ⟨_, exec_alu h hi, State.ds1_top h, ?newTop, fun j hj => ?otherSlots, rfl, rfl, .of_eq rfl, .of_eq rfl,
    rfl, rfl, rfl⟩
  case newTop => exact (Stack.setTop_slot _ hpop _).trans (if_pos rfl)
  case otherSlots => exact (Stack.setTop_slot _ hpop j).trans (if_neg hj)

theorem toNat_aluSub_nat (a b : Byte) : (aluSub a b).toNat = (a.toNat + 256 - b.toNat) % 256 := by
  have h := toNat_aluSub a b
  have hb := b.isLt
  omega

theorem aluSub_self (a : Byte) : aluSub a a = 0x00 := by
  apply BitVec.eq_of_toNat_eq
  rw [toNat_aluSub_nat, Nat.add_sub_cancel_left]
  rfl

/-- Settles O39: the ALU effect with `aluAdd`, which is addition mod 256. -/
theorem addReplacesTopTwo : Obligations.AddReplacesTopTwo := by
  intro s i hs hi
  have hexec : exec i s = .next (s.aluTopTwo aluAdd) := by rcases hi with rfl | rfl <;> rfl
  obtain ⟨t, ht, hdtop, htop, hframe⟩ := exec_alu_effect hs.ds_legal hexec
  exact ⟨t, ht, hdtop, by rw [htop, toNat_aluAdd], hframe⟩

/-- Settles O40: the ALU effect with `aluSub`; with one slot both operands are the same byte. -/
theorem subReplacesTopTwo : Obligations.SubReplacesTopTwo := by
  intro s i hs hi
  have hexec : exec i s = .next (s.aluTopTwo aluSub) := by rcases hi with rfl | rfl <;> rfl
  obtain ⟨t, ht, hdtop, htop, hframe⟩ := exec_alu_effect hs.ds_legal hexec
  refine ⟨t, ht, hdtop, by rw [htop, toNat_aluSub_nat], fun hone => ?_, hframe⟩
  have hzero : s.dtop = 0 := Nat.lt_one_iff.1 (hone ▸ hs.ds_legal.2)
  have hsame : t.dtop = s.dtop := by rw [hdtop, hone, hzero]; rfl
  rw [htop, hsame, aluSub_self]

/-! ### Constants -/

/-- Settles O43: the sequence is one write of the byte with all its bits shifted in (R145). -/
theorem shiftSequenceBuildsConstant : Obligations.ShiftSequenceBuildsConstant := by
  intro s bits hs
  have htop := State.setTopD_dsAt_top (shiftInsertAll (s.dsAt s.dtop) bits) hs.ds_legal
  refine ⟨_, execAll_shiftInstrs hs.ds_legal bits, ?value, fun hlen => ?eight, rfl,
    State.setTopD_sameSlotsBut _ hs.ds_legal, rfl, rfl, .of_eq rfl, .of_eq rfl, rfl, rfl, rfl⟩
  case value => rw [htop, toNat_shiftInsertAll]
  case eight => rw [htop, shiftInsertAll_of_eight_le _ hlen, BitVec.toNat_ofNat]

theorem length_shiftInstrs (bits : List Bool) : (shiftInstrs bits).length = bits.length := List.length_map _

/-- The eight bits of a byte, bit 7 first, are its binary digits. -/
theorem bitsValue_bitsFromTop (b : Byte) : bitsValue (bitsFromTop b) = b.toNat := by
  have hb := b.isLt
  simp only [bitsValue, bitsFromTop, List.foldl_cons, List.foldl_nil, BitVec.getLsbD, Nat.toNat_testBit]
  omega

theorem Mnemonic.instr?_mnemonic (i : Instr) : Mnemonic.instr? i.variant i.mnemonic = some i := by
  cases i <;> rfl

theorem AsmLine.bytes_instr {p : Params} {i : Instr} (h : i.variant = p.variant) :
    (AsmLine.instr i.mnemonic).bytes p = some [p.opcode i] := by
  rw [AsmLine.bytes, ← h, Mnemonic.instr?_mnemonic]
  rfl

/-- R78: a program of instructions of the variant assembles to their bytes. -/
theorem assemble_instrs {p : Params} {is : List Instr} (h : ∀ i ∈ is, i.variant = p.variant) :
    assemble p (is.map fun i => .instr i.mnemonic) = some (is.map p.opcode) := by
  induction is with
  | nil => rfl
  | cons i is ih =>
    obtain ⟨hi, his⟩ := List.forall_mem_cons.1 h
    rw [List.map_cons, assemble, AsmLine.bytes_instr hi, ih his]
    rfl

/-- R74: the bytes of instructions of the variant decode to those instructions. -/
theorem map_decode_map_opcode {p : Params} (hp : p.Admitted) {is : List Instr}
    (h : ∀ i ∈ is, i.variant = p.variant) : (is.map p.opcode).map (decode p) = is.map Decoded.instr := by
  rw [List.map_map]
  exact List.map_congr_left fun i hi => decode_opcode hp (h i hi)

theorem setb_eq (n : Int) :
    setb n = (shiftInstrs (bitsFromTop (byte n))).map fun i => .instr i.mnemonic := by
  unfold setb shiftInstrs
  rw [List.map_map]
  exact List.map_congr_left fun bit _ => by cases bit <;> rfl

theorem shiftInstrs_variant {bits : List Bool} {i : Instr} (h : i ∈ shiftInstrs bits) : i.variant = .lean := by
  obtain ⟨bit, -, rfl⟩ := List.mem_map.1 h
  cases bit <;> rfl

/-- Settles O44: the lines of SETB are ONE and ZERO for the eight bits of the byte, and eight bits shifted in are the
byte whatever stood there. -/
theorem setbLeavesByteOnTop : Obligations.SetbLeavesByteOnTop := by
  intro s v hs hv
  have hlean : ∀ i ∈ shiftInstrs (bitsFromTop (byte v)), i.variant = s.params.variant := fun i hi =>
    (shiftInstrs_variant hi).trans hv.symm
  refine ⟨_, shiftInstrs (bitsFromTop (byte v)), _, ?assembles, ?_, map_decode_map_opcode hs.admitted hlean,
    execAll_shiftInstrs hs.ds_legal _, ?value, rfl, State.setTopD_sameSlotsBut _ hs.ds_legal, .of_eq rfl⟩
  case assembles => rw [setb_eq, assemble_instrs hlean]
  case value =>
    have htop := State.setTopD_dsAt_top (shiftInsertAll (s.dsAt s.dtop) (bitsFromTop (byte v))) hs.ds_legal
    rw [State.setTopD_dtop, htop, shiftInsertAll_of_eight_le _ (by rfl), bitsValue_bitsFromTop, BitVec.ofNat_toNat,
      BitVec.setWidth_eq, toNat_byte]
  rw [List.length_map, length_shiftInstrs]
  rfl

end Sys2Proof.Machine
end

section
/-! Memory access (43_memory_access.md) and control transfer (44_control_transfer.md). Each handler's equation in
`Laws/Exec.lean` splits at CORE_SIZE; either way the pops are done, the slots kept, and one more element is written. -/

namespace Sys2Proof.Machine

open Sys2Proof

/-- The address of the two-operand instructions is the byte in the slot before the top. -/
theorem State.below_eq {s : State} (h : s.ds.Legal s.params.stackSize) :
    s.below = s.dsAt (slotBefore s.params.stackSize s.dtop) :=
  congrArg s.dsAt (Stack.dec_eq h.2)

/-! ### Memory access -/

/-- Settles O45: RICH LOAD is one pop, and then `acc` is written or the fault taken. -/
theorem loadRichReadsOrFaults : Obligations.LoadRichReadsOrFaults := by
  intro s hs a
  have hexec := exec_loadRich s
  have hdtop := State.ds1_top hs.ds_legal
  refine ⟨fun ha => ?_, fun ha => ?_⟩
  · rw [if_pos ha] at hexec
    exact ⟨_, hexec, rfl, hdtop, .of_slots_eq rfl, rfl, .of_eq rfl, .of_eq rfl, rfl, rfl, rfl⟩
  · rw [if_neg (Nat.not_lt.2 ha)] at hexec
    exact ⟨_, hexec, ⟨rfl, rfl, rfl⟩, rfl, hdtop, .of_slots_eq rfl, rfl, .of_eq rfl, .of_eq rfl⟩

/-- Settles O46: STOR is one pop, and then one byte of core is written or the fault taken. -/
theorem storWritesOrFaults : Obligations.StorWritesOrFaults := by
  intro s hs a
  have hexec := exec_storRich s
  have hdtop := State.ds1_top hs.ds_legal
  refine ⟨fun ha => ?_, fun ha => ?_⟩
  · rw [if_pos ha] at hexec
    exact ⟨_, hexec, Memory.read_write_same .., .of_write rfl, hdtop, .of_slots_eq rfl, rfl, rfl, .of_eq rfl,
      rfl, rfl, rfl⟩
  · rw [if_neg (Nat.not_lt.2 ha)] at hexec
    exact ⟨_, hexec, ⟨rfl, rfl, rfl⟩, .of_eq rfl, hdtop, .of_slots_eq rfl, rfl, rfl, .of_eq rfl⟩

/-- Settles O47: LEAN LOAD writes the top in place, or takes the fault without a pop. -/
theorem loadLeanReplacesTopOrFaults : Obligations.LoadLeanReplacesTopOrFaults := by
  intro s hs a
  have hexec := exec_loadLean s
  refine ⟨fun ha => ?_, fun ha => ?_⟩
  · rw [if_pos ha] at hexec
    exact ⟨_, hexec, State.setTopD_dsAt_top _ hs.ds_legal, rfl, State.setTopD_sameSlotsBut _ hs.ds_legal, rfl, rfl,
      .of_eq rfl, .of_eq rfl, rfl, rfl, rfl⟩
  · rw [if_neg (Nat.not_lt.2 ha)] at hexec
    exact ⟨_, hexec, ⟨rfl, rfl, rfl⟩, rfl, .of_slots_eq rfl, rfl, rfl, .of_eq rfl, .of_eq rfl⟩

/-- Settles O48: the LEAN POP is two pops, and then one byte of core is written or the fault taken. -/
theorem popLeanStoresOrFaults : Obligations.PopLeanStoresOrFaults := by
  intro s hs below a
  have hexec := exec_popLean s
  have hdtop := State.ds2_top hs.ds_legal
  rw [State.below_eq hs.ds_legal] at hexec
  refine ⟨fun ha => ?_, fun ha => ?_⟩
  · rw [if_pos ha] at hexec
    exact ⟨_, hexec, Memory.read_write_same .., .of_write rfl, hdtop, .of_slots_eq rfl, rfl, rfl, .of_eq rfl,
      rfl, rfl, rfl⟩
  · rw [if_neg (Nat.not_lt.2 ha)] at hexec
    exact ⟨_, hexec, ⟨rfl, rfl, rfl⟩, .of_eq rfl, hdtop, .of_slots_eq rfl, rfl, rfl, .of_eq rfl⟩

/-! ### Control transfer -/

/-- After its pops a jump writes `pc`, or `run` and `reason`, as its target lies below CORE_SIZE or not (R180). -/
theorem State.jumpTo_effect {s t : State} {st : Stack} {a : Byte} {op : AddressUse} (hst : st.slots = s.ds.slots)
    (ht : (s.setDs st).jumpTo a op = t) :
    (a.toNat < s.params.coreSize → t.pc = a.toNat ∧ SameStatus s t) ∧
    (s.params.coreSize ≤ a.toNat → t.pc = s.pc ∧ HasPanicked (.addressOutOfRange op) s t) ∧
    t.dtop = st.top ∧ SameSlots s t ∧ t.acc = s.acc ∧ SameReturn s t ∧ SameCore s t := by
  rcases State.jumpTo_cases a op (s.setDs st) with ⟨ha, e⟩ | ⟨ha, e⟩ <;> rw [e] at ht <;> subst ht
  · exact ⟨fun _ => ⟨rfl, rfl, rfl, rfl⟩, fun h => absurd ha (Nat.not_lt.2 h), rfl, .of_slots_eq hst, rfl, .of_eq rfl,
      .of_eq rfl⟩
  · exact ⟨fun h => absurd h (Nat.not_lt.2 ha), fun _ => ⟨rfl, rfl, rfl, rfl⟩, rfl, .of_slots_eq hst, rfl, .of_eq rfl,
      .of_eq rfl⟩

/-- Settles O49: one pop, and then the jump. -/
theorem jmpJumpsOrFaults : Obligations.JmpJumpsOrFaults := by
  intro s i hs hi a
  have hexec : exec i s = .next ((s.setDs s.ds1).jumpTo (s.dsAt s.dtop) .jump) := by
    rcases hi with rfl | rfl <;> rfl
  obtain ⟨htaken, hfaults, htop, hframe⟩ := State.jumpTo_effect (s := s) (st := s.ds1) rfl rfl
  exact ⟨_, hexec, htaken, hfaults, htop.trans (State.ds1_top hs.ds_legal), hframe⟩

/-- Settles O50: one pop, and then with `acc` zero the jump. -/
theorem jeqJumpsExactlyOnZero : Obligations.JeqJumpsExactlyOnZero := by
  intro s hs a
  have hdtop := State.ds1_top hs.ds_legal
  by_cases hz : s.acc = 0x00
  · have hexec : exec .jeqRich s = .next ((s.setDs s.ds1).jumpTo (s.dsAt s.dtop) .jeq) :=
      congrArg _ (if_pos (beq_iff_eq.2 hz))
    obtain ⟨htaken, hfaults, htop, hframe⟩ := State.jumpTo_effect (s := s) (st := s.ds1) rfl rfl
    exact ⟨_, hexec, fun h => absurd hz h, fun _ => htaken, fun _ => hfaults, htop.trans hdtop, hframe⟩
  · have hexec := exec_jeqRich s
    rw [if_neg hz] at hexec
    exact ⟨_, hexec, fun _ => ⟨rfl, rfl, rfl, rfl⟩, fun h => absurd h hz, fun h => absurd h hz, hdtop,
      .of_slots_eq rfl, rfl, .of_eq rfl, .of_eq rfl⟩

/-- Settles O51: two pops, and then with a test below 128, the sign bit clear, the jump. -/
theorem jposJumpsExactlyOnNonNegative : Obligations.JposJumpsExactlyOnNonNegative := by
  intro s hs below a test
  have hdtop := State.ds2_top hs.ds_legal
  have hbelow : s.below.toNat = test := congrArg BitVec.toNat (State.below_eq hs.ds_legal)
  rcases Nat.lt_or_ge test 128 with hb | hb
  · have hexec : exec .jposLean s = .next ((s.setDs s.ds2).jumpTo (s.dsAt s.dtop) .jpos) :=
      congrArg _ (if_pos ((isNonNegative_eq s.below).trans (decide_eq_true (hbelow.trans_lt hb))))
    obtain ⟨htaken, hfaults, htop, hframe⟩ := State.jumpTo_effect (s := s) (st := s.ds2) rfl rfl
    exact ⟨_, hexec, fun h => absurd hb (Nat.not_lt.2 h), fun _ => htaken, fun _ => hfaults, htop.trans hdtop, hframe⟩
  · have hexec := exec_jposLean s
    rw [if_neg (Nat.not_lt.2 (hbelow ▸ hb))] at hexec
    exact ⟨_, hexec, fun _ => ⟨rfl, rfl, rfl, rfl⟩, fun h => absurd h (Nat.not_lt.2 hb),
      fun h => absurd h (Nat.not_lt.2 hb), hdtop, .of_slots_eq rfl, rfl, .of_eq rfl, .of_eq rfl⟩

/-- Settles O52: HALT writes `run` alone. -/
theorem haltHaltsAndKeepsTheRest : Obligations.HaltHaltsAndKeepsTheRest := by
  intro s i hi
  have hexec : exec i s = .next s.halt := by
    rcases hi with rfl | rfl
    · exact exec_haltRich s
    · exact exec_haltLean s
  exact ⟨_, hexec, rfl, rfl, rfl, rfl, rfl, .of_slots_eq rfl, rfl, .of_eq rfl, .of_eq rfl⟩

end Sys2Proof.Machine
end
